-- ==== Sys2Proof/Word.lean ====
section
/-!
DEFINITION. The 32-bit word of the register space and of the command word (rules R30, R90), the 16-bit coordinate
fields of `DIM` and `BUF_POS` (rules R33, R39), and the names of the seven raster buffer slots (rule R20).
-/
namespace Sys2Proof

/-- A register word or a command word: 32 bits (rules R30, R90). -/
abbrev Word := BitVec 32

/-- A 16-bit row, column, height or width field (rules R33, R39). -/
abbrev Coord := BitVec 16

/-- The seven raster buffer slots `S[0]` to `S[6]` by the names of rule R20 (`cls` is the slot `CLASS`). -/
inductive Slot where
  | mosaic
  | greenV
  | greenH
  | cls
  | green
  | red
  | blue
deriving DecidableEq, Repr

/-- Slot 3 is the one slot of the wide (signed 32-bit) kind; the other six hold unsigned samples (rules R20, R22). -/
def Slot.isWide : Slot → Bool
  | .cls => true
  | .mosaic => false
  | .greenV => false
  | .greenH => false
  | .green => false
  | .red => false
  | .blue => false

end Sys2Proof
end

