-- ==== Sys2Proof/Config.lean ====
section
/-!
DEFINITION. The named parameters the spec leaves to the platform and the implementation (rules R7, R62; the table
"Parameters the model takes as arguments" of 92_eei_decisions.md). They are plain data that `State` carries and that
no step changes (log entry 2), so that every statement about every state holds for every value of them.
`KERNEL`, `RENORM` and `Half` have one legal value each, fixed by the spec: they are the definitions `kernel`,
`renormTable` and `tdiv2` of the machine.
-/
namespace Sys2Proof

/-- The parameters `BASE`, `MAX_DIM` and `CAP_PIXELS`. -/
structure Params where
  /-- `BASE`: the byte address of the block's 64-byte register window (rule R62). -/
  base : Nat
  /-- `MAX_DIM`: the largest legal height and width (rule R7). -/
  maxDim : Nat
  /-- `CAP_PIXELS`: the capacity of one buffer slot in samples (rule R7). -/
  capPixels : Nat
deriving DecidableEq, Repr

/-- The constraints the spec puts on the parameters: `BASE mod 64 = 0`; `MAX_DIM` even with `2 ≤ MAX_DIM ≤ 65534`;
`4 ≤ CAP_PIXELS` (rules R7, R62). -/
def Params.wf (p : Params) : Bool :=
  p.base % 64 == 0 && p.maxDim % 2 == 0 && decide (2 ≤ p.maxDim) && decide (p.maxDim ≤ 65534) &&
    decide (4 ≤ p.capPixels)

/-- The parameters of `State.reset`: `MAX_DIM` at the spec's default; `CAP_PIXELS` at the value that the spec says a
model may take; `BASE` 0, where the spec gives no default (DESIGN CHOICE, log entry 2). -/
def Params.default : Params :=
  { base := 0, maxDim := 65534, capPixels := 65534 * 65534 }

end Sys2Proof
end

