-- ==== Sys2Proof/Syntax.lean ====
section
/-!
DEFINITION. The commands: one constructor for each row of spec/opcode_table.json (rule R96), the reserved code
`REFINE` (rule R261) among them.
-/
namespace Sys2Proof

/-- A command word by its row of the opcode map. -/
inductive Instr where
  /-- `IGD.H`: the horizontal (row-wise) pass of the green interpolator (rule R147). -/
  | igdH
  /-- `IGD.V`: the vertical (column-wise) pass of the green interpolator (rule R147). -/
  | igdV
  /-- `IGD.VH`: both passes of the green interpolator (rule R147). -/
  | igdVH
  /-- `CCD`: the classifier difference (rule R171). -/
  | ccd
  /-- `MRG`: the merge of the two green estimates (rule R190). -/
  | mrg
  /-- `RRB`: the reconstruction of red and blue (rule R207). -/
  | rrb
  /-- `DEMOSAIC`: the orchestrator (rule R231). -/
  | demosaic
  /-- `BALLOC d`: raster construction (rule R235). -/
  | balloc (dst : Slot)
  /-- `BCOPY d, s`: raster copy with widening or narrowing (rule R236). -/
  | bcopy (dst src : Slot)
  /-- `BMOVE d, s`: raster move (rule R237). -/
  | bmove (dst src : Slot)
  /-- `BFREE d`: raster discard (rule R238). -/
  | bfree (dst : Slot)
  /-- `REFINE`: the reserved code 0x14 with any value in bits 23:0; every such word is illegal (rule R261). -/
  | refine (payload : BitVec 24)
deriving DecidableEq, Repr

end Sys2Proof
end

