-- ==== Sys2Proof/WellFormed.lean ====
section
/-!
DEFINITION. Which terms of `Instr` have a command word, and which of those words are legal (rules R96, R97).
-/
namespace Sys2Proof

/-- A term that stands for a word the decoder accepts by name. The one condition an operand can break is that of
`BMOVE`: `DST` and `SRC` of one kind (rules R96, R97); a slot operand is one of the seven slots by its type. -/
def Instr.wellFormed : Instr → Bool
  | .igdH => true
  | .igdV => true
  | .igdVH => true
  | .ccd => true
  | .mrg => true
  | .rrb => true
  | .demosaic => true
  | .balloc _ => true
  | .bcopy _ _ => true
  | .bmove d s => d.isWide == s.isWide
  | .bfree _ => true
  | .refine _ => true

/-- The reserved commands: words that have a name and are never legal (rules R97, R261). -/
def Instr.reserved : Instr → Bool
  | .igdH => false
  | .igdV => false
  | .igdVH => false
  | .ccd => false
  | .mrg => false
  | .rrb => false
  | .demosaic => false
  | .balloc _ => false
  | .bcopy _ _ => false
  | .bmove _ _ => false
  | .bfree _ => false
  | .refine _ => true

/-- A legal command: well-formed and not a reserved code (rules R96, R97). -/
def Instr.legal (i : Instr) : Bool :=
  i.wellFormed && !i.reserved

end Sys2Proof
end

