-- ==== Sys2Proof/Decode.lean ====
section
/-!
DEFINITION. The decoder (rule R98), total on all 2^32 words and rejecting by name; the encoder, written from the
formats S and B and the opcode map (rules R91, R92, R96); and the opcode map itself as data.
-/
namespace Sys2Proof

/-- The number of a slot (rule R20). -/
def Slot.num : Slot → BitVec 4
  | .mosaic => 0
  | .greenV => 1
  | .greenH => 2
  | .cls => 3
  | .green => 4
  | .red => 5
  | .blue => 6

/-- The slot of a number; 7 to 15 name no slot (rules R20, R94). -/
def Slot.ofNum (n : BitVec 4) : Option Slot :=
  if n = 0 then some .mosaic
  else if n = 1 then some .greenV
  else if n = 2 then some .greenH
  else if n = 3 then some .cls
  else if n = 4 then some .green
  else if n = 5 then some .red
  else if n = 6 then some .blue
  else none

/-- `OP`, bits 31:24 of both formats (rule R90). -/
def opField (x : Word) : BitVec 8 := x.extractLsb' 24 8

/-- `DST`, bits 23:20 of format B (rule R92). -/
def dstField (x : Word) : BitVec 4 := x.extractLsb' 20 4

/-- `SRC`, bits 19:16 of format B (rule R92). -/
def srcField (x : Word) : BitVec 4 := x.extractLsb' 16 4

/-- `DIR`, bits 1:0 of format S (rule R91). -/
def dirField (x : Word) : BitVec 2 := x.extractLsb' 0 2

/-- Why a word is no command by name (rule R97). -/
inductive DecodeError where
  /-- `OP` is not in the table. -/
  | unknownOpcode
  /-- A bit of a must-be-zero field is 1. -/
  | mustBeZero
  /-- `IGD` with `DIR = 0b00`. -/
  | noDirection
  /-- A slot field holds 7 to 15. -/
  | noSuchSlot
  /-- `BMOVE` with exactly one of `DST`, `SRC` equal to 3. -/
  | mixedKinds
deriving DecidableEq, Repr

/-- Format S with bits 23:0 all must-be-zero: `CCD`, `MRG`, `RRB`, `DEMOSAIC` (rule R91). -/
def decodeStage (i : Instr) (x : Word) : Except DecodeError Instr :=
  if x.extractLsb' 0 24 = 0 then .ok i else .error .mustBeZero

/-- `IGD`: bits 23:2 must be zero and `DIR` names the passes (rules R91, R93). -/
def decodeIgd (x : Word) : Except DecodeError Instr :=
  if x.extractLsb' 2 22 = 0 then
    if dirField x = 1 then .ok .igdH
    else if dirField x = 2 then .ok .igdV
    else if dirField x = 3 then .ok .igdVH
    else .error .noDirection
  else .error .mustBeZero

/-- Format B with `DST` only: bits 19:0 must be zero (rule R92). -/
def decodeDst (mk : Slot → Instr) (x : Word) : Except DecodeError Instr :=
  if x.extractLsb' 0 20 = 0 then
    match Slot.ofNum (dstField x) with
    | some d => .ok (mk d)
    | none => .error .noSuchSlot
  else .error .mustBeZero

/-- Format B with `DST` and `SRC`: bits 15:0 must be zero (rule R92). -/
def decodeDstSrc (mk : Slot → Slot → Instr) (x : Word) : Except DecodeError Instr :=
  if x.extractLsb' 0 16 = 0 then
    match Slot.ofNum (dstField x), Slot.ofNum (srcField x) with
    | some d, some s =>
      if (mk d s).wellFormed then .ok (mk d s) else .error .mixedKinds
    | _, _ => .error .noSuchSlot
  else .error .mustBeZero

/-- Decode (rule R98). A word with `OP = 0x14` is given its reserved name, whatever bits 23:0 hold (rule R261): it is
rejected as illegal by its meaning, which raises `ILLCMD` (log entry 5). -/
def decode (x : Word) : Except DecodeError Instr :=
  if opField x = 0x10#8 then decodeIgd x
  else if opField x = 0x11#8 then decodeStage .ccd x
  else if opField x = 0x12#8 then decodeStage .mrg x
  else if opField x = 0x13#8 then decodeStage .rrb x
  else if opField x = 0x14#8 then .ok (.refine (x.extractLsb' 0 24))
  else if opField x = 0x1F#8 then decodeStage .demosaic x
  else if opField x = 0x20#8 then decodeDst .balloc x
  else if opField x = 0x21#8 then decodeDstSrc .bcopy x
  else if opField x = 0x22#8 then decodeDstSrc .bmove x
  else if opField x = 0x23#8 then decodeDst .bfree x
  else .error .unknownOpcode

/-- Format S (rule R91): `OP`, 22 zero bits, `DIR`. -/
def formatS (op : BitVec 8) (dir : BitVec 2) : Word := op ++ 0#22 ++ dir

/-- Format B (rule R92): `OP`, `DST`, `SRC`, 16 zero bits. -/
def formatB (op : BitVec 8) (dst src : BitVec 4) : Word := op ++ dst ++ src ++ 0#16

/-- The command word of an instruction (rule R96). -/
def encode : Instr → Word
  | .igdH => formatS 0x10 0b01
  | .igdV => formatS 0x10 0b10
  | .igdVH => formatS 0x10 0b11
  | .ccd => formatS 0x11 0
  | .mrg => formatS 0x12 0
  | .rrb => formatS 0x13 0
  | .demosaic => formatS 0x1F 0
  | .balloc d => formatB 0x20 d.num 0
  | .bcopy d s => formatB 0x21 d.num s.num
  | .bmove d s => formatB 0x22 d.num s.num
  | .bfree d => formatB 0x23 d.num 0
  | .refine payload => 0x14#8 ++ payload

/-- The instruction a word stands for, where the decoder accepts it. -/
def decodeOk (x : Word) : Option Instr :=
  match decode x with
  | .ok i => some i
  | .error _ => none

/-- The host's view of the decoder: the instruction of an opcode-table row's bits. Every command is one 32-bit word
with no byte order (rules R67, R90); bits at and above `nbits` are 0. -/
def decodeTableWord (nbits w : Nat) : Option Instr :=
  if nbits ≤ 32 then decodeOk (BitVec.ofNat 32 (w % 2 ^ nbits)) else none

/-- One row of the opcode map of rule R96: a word `x` is of the row when `x AND mask = pattern`. -/
structure OpcodeRow where
  mnemonic : String
  mask : Word
  pattern : Word
deriving DecidableEq, Repr

/-- The opcode map (rules R96, R97; opcode_table.json). -/
def opcodeTable : List OpcodeRow :=
  [ ⟨"IGD.H", 0xFFFFFFFF, 0x10000001⟩,
    ⟨"IGD.V", 0xFFFFFFFF, 0x10000002⟩,
    ⟨"IGD.VH", 0xFFFFFFFF, 0x10000003⟩,
    ⟨"CCD", 0xFFFFFFFF, 0x11000000⟩,
    ⟨"MRG", 0xFFFFFFFF, 0x12000000⟩,
    ⟨"RRB", 0xFFFFFFFF, 0x13000000⟩,
    ⟨"DEMOSAIC", 0xFFFFFFFF, 0x1F000000⟩,
    ⟨"BALLOC", 0xFF0FFFFF, 0x20000000⟩,
    ⟨"BCOPY", 0xFF00FFFF, 0x21000000⟩,
    ⟨"BMOVE", 0xFF00FFFF, 0x22000000⟩,
    ⟨"BFREE", 0xFF0FFFFF, 0x23000000⟩,
    ⟨"REFINE", 0xFF000000, 0x14000000⟩ ]

/-- The word is of the row. -/
def OpcodeRow.holds (row : OpcodeRow) (x : Word) : Bool :=
  x &&& row.mask == row.pattern

/-- The mnemonic of an instruction's row. -/
def Instr.mnemonic : Instr → String
  | .igdH => "IGD.H"
  | .igdV => "IGD.V"
  | .igdVH => "IGD.VH"
  | .ccd => "CCD"
  | .mrg => "MRG"
  | .rrb => "RRB"
  | .demosaic => "DEMOSAIC"
  | .balloc _ => "BALLOC"
  | .bcopy _ _ => "BCOPY"
  | .bmove _ _ => "BMOVE"
  | .bfree _ => "BFREE"
  | .refine _ => "REFINE"

end Sys2Proof
end

