-- ==== Sys2Proof/Machine/State.lean ====
section
/-!
DEFINITION. The state of the block as plain data: the buffer space (rules R20 to R23), the registers (rules R30 to
R43), the engine state (rule R44), and, as the model's own fields, the parameters, the host accesses still to come and
the word the last read returned. Every reset value is that of rule R50.
-/
namespace Sys2Proof.Machine

/-- The mosaic patterns of rule R6. -/
inductive Pattern where
  | rggb
  | grbg
deriving DecidableEq, Repr

/-- The byte width of a sample: 1 or 2 in a sample slot, 4 in slot 3 (rules R5, R21). -/
inductive SampleBytes where
  | one
  | two
  | four
deriving DecidableEq, Repr

/-- A buffer value: a shape and its samples, row by row (section 1 of 40_primitives.md; rules R11, R28). -/
structure Plane where
  h : Nat
  w : Nat
  rows : List (List Int)
deriving DecidableEq, Repr

/-- The content of a valid slot: the shape tag `(h, w, sw)` and the samples (rule R21). -/
structure Raster where
  sw : SampleBytes
  plane : Plane
deriving DecidableEq, Repr

/-- The buffer space: the seven slots of rule R20. `none` is the empty slot of rule R23: `valid = 0`, `h = w = 0`, no
data; the tag `sw` of an empty slot cannot be observed (rule R50; log entry 9). -/
structure Memory where
  mosaic : Option Raster
  greenV : Option Raster
  greenH : Option Raster
  cls : Option Raster
  green : Option Raster
  red : Option Raster
  blue : Option Raster
deriving DecidableEq, Repr

/-- `CFG` (rule R32). Its reserved bits are not state (rule R30; V2 of 93_implementation_defined.md). -/
structure Cfg where
  pattern : Pattern
  swc : BitVec 2
  parEn : Bool
  vecEn : Bool
deriving DecidableEq, Repr

/-- `DIM`: `H` in bits 31:16, `W` in bits 15:0 (rule R33). -/
structure Dim where
  h : Coord
  w : Coord
deriving DecidableEq, Repr

/-- `CTRL`: the two interrupt enables (rule R37). `SRST` reads 0 always and is not state. -/
structure Ctrl where
  ieDone : Bool
  ieFault : Bool
deriving DecidableEq, Repr

/-- `BUF_POS`: `ROW` in bits 31:16, `COL` in bits 15:0 (rule R39). -/
structure BufPos where
  row : Coord
  col : Coord
deriving DecidableEq, Repr

/-- The fault causes of rule R270. -/
inductive FaultCause where
  | illCmd
  | cfgErr
  | dimErr
  | noBuf
  | shape
deriving DecidableEq, Repr

/-- The stage steps `STATUS.STAGE` names (rule R36). -/
inductive Stage where
  /-- 1: green interpolation. -/
  | interpolate
  /-- 2: classifier difference. -/
  | classify
  /-- 3: merge. -/
  | merge
  /-- 4: red/blue reconstruction. -/
  | reconstruct
  /-- 5: a buffer command. -/
  | bufferOp
deriving DecidableEq, Repr

/-- The engine state `ES` (rule R44) with what has a value only in it: `STATUS.STAGE`, which is 0 outside `BUSY`
(rule R36), and `STATUS.CAUSE` and `FAULT_INFO`, which are 0 outside `FAULTED` (rules R36, R42). -/
inductive Engine where
  | idle
  | busy (stage : Stage)
  | faulted (cause : FaultCause) (info : Word)
deriving DecidableEq, Repr

/-- The width of a register access as the platform presents it; the interface has aligned words only (rule R61). -/
inductive AccessWidth where
  | byte
  | half
  | word
  | dword
deriving DecidableEq, Repr

/-- What the outside world does to the block, and the turn the schedule gives the engine (rules R70, R280, R300; log
entry 1). -/
inductive HostEvent where
  /-- A load at a byte address. -/
  | read (width : AccessWidth) (addr : Nat)
  /-- A store of a word at a byte address. -/
  | write (width : AccessWidth) (addr : Nat) (data : Word)
  /-- The `reset` input (rule R300). -/
  | hardReset
  /-- The engine takes its step before the next host access; nothing happens if it has none. -/
  | engineTurn
deriving DecidableEq, Repr

/-- The state of the machine. -/
structure State where
  /-- The parameters `BASE`, `MAX_DIM`, `CAP_PIXELS`; no step changes them (log entry 2). -/
  params : Params
  /-- The slots `S[0]` to `S[6]` (rule R20). -/
  mem : Memory
  /-- `ES` with `STATUS.STAGE`, `STATUS.CAUSE` and `FAULT_INFO` (rules R36, R42, R44). -/
  engine : Engine
  /-- `CFG` (rule R32). -/
  cfg : Cfg
  /-- `DIM` (rule R33). -/
  dim : Dim
  /-- `STATUS.DONE` (rule R35). -/
  done : Bool
  /-- `STATUS.OOB` (rule R35). -/
  oob : Bool
  /-- `CTRL` (rule R37). -/
  ctrl : Ctrl
  /-- `BUF_SEL.SLOT` (rule R38). -/
  bufSel : BitVec 4
  /-- `BUF_POS` (rule R39). -/
  bufPos : BufPos
  /-- `CUR_CMD` (rule R43). -/
  curCmd : Word
  /-- The model's own: what the host and the schedule do next, the first entry first (log entry 1). -/
  inputs : List HostEvent
  /-- The model's own: the word the last completed read returned (log entry 13). -/
  readData : Option Word
deriving DecidableEq, Repr

/-- Why the machine stops with a fault. The block's own faults (rule R270) are not here: taking one is a next state. -/
inductive Fault where
  /-- Raised by the engine step of a busy engine whose `STAGE` is no stage of the command in `CUR_CMD`. Rules R36 and
  R230 keep such states from arising. Safe: the machine stops where the spec says nothing. -/
  | stageOfAnotherCommand
  /-- Raised by the engine step of a busy engine whose `CUR_CMD` is no command word. Rule R230 keeps such states from
  arising. Safe: the machine stops where the spec says nothing. -/
  | noCommandInProgress
deriving DecidableEq, Repr

/-- Why the model gives no meaning. -/
inductive Refusal where
  /-- An instruction of the opcode table without a meaning yet; no arm of `exec` answers so in this model. Safe. -/
  | notModelled (mnemonic : String)
  /-- A register access that is no aligned 32-bit word, raised by the host step: the interface has no such access, and
  the spec has the model refuse it (rule R61; V7 of 93_implementation_defined.md). Safe. -/
  | notAnAlignedWord
  /-- An access outside the block's 64-byte window, raised by the host step: it does not reach this block, and what it
  does is the platform's (rule R62). Safe. -/
  | outsideTheWindow
deriving DecidableEq, Repr

/-- Seven empty slots (rule R50). -/
def Memory.allEmpty : Memory :=
  { mosaic := none, greenV := none, greenH := none, cls := none, green := none, red := none, blue := none }

/-- The block after reset (rule R50): idle, every slot empty, every register 0, with the given parameters. -/
def State.resetWith (p : Params) : State :=
  { params := p
    mem := Memory.allEmpty
    engine := .idle
    cfg := { pattern := .rggb, swc := 0, parEn := false, vecEn := false }
    dim := { h := 0, w := 0 }
    done := false
    oob := false
    ctrl := { ieDone := false, ieFault := false }
    bufSel := 0
    bufPos := { row := 0, col := 0 }
    curCmd := 0
    inputs := []
    readData := none }

/-- The machine right after reset (rule R50), with the parameters of log entry 2. -/
def State.reset : State := State.resetWith Params.default

end Sys2Proof.Machine
end

