-- ==== Sys2Proof/Machine/Operands.lean ====
section
/-!
DEFINITION. How operands are read: samples of a buffer value (rules R11, R112), sites (rule R12), the sample width and
its largest value (rules R5, R32), the slots by name (rule R20), the legality of dimensions and shapes (rules R7, R24)
and the range of a slot's samples (rule R22).
-/
namespace Sys2Proof.Machine

/-- The buffer value of a shape whose sample at `(r, c)` is `f r c` (the slot write of section 5 of 00_scope.md). -/
def Plane.tabulate (h w : Nat) (f : Nat → Nat → Int) : Plane :=
  { h := h, w := w, rows := (List.range h).map fun r => (List.range w).map fun c => f r c }

/-- `b[r, c]`, in bounds (rule R11). No rule reads out of bounds, or data of an empty slot, through it; it is 0 there
(log entry 8). -/
def Plane.sample (b : Plane) (r c : Nat) : Int :=
  (b.rows.getD r []).getD c 0

/-- The position is in bounds (rule R11). -/
def Plane.inBounds (b : Plane) (r c : Int) : Bool :=
  decide (0 ≤ r) && decide (r < b.h) && decide (0 ≤ c) && decide (c < b.w)

/-- Safe get (rule R112): the sample if in bounds, else 0. -/
def Plane.get0 (b : Plane) (r c : Int) : Int :=
  if b.inBounds r c then b.sample r.toNat c.toNat else 0

/-- The buffer value with one sample replaced; an out-of-bounds position changes nothing. -/
def Plane.setSample (b : Plane) (r c : Nat) (v : Int) : Plane :=
  { b with rows := b.rows.modify r fun row => row.set c v }

/-- The plane has `h` rows of `w` samples: the one form in which a buffer value of a shape is held. -/
def Plane.wellShaped (b : Plane) : Bool :=
  b.rows.length == b.h && b.rows.all fun row => row.length == b.w

/-- Every sample satisfies a test. -/
def Plane.allSamples (b : Plane) (ok : Int → Bool) : Bool :=
  b.rows.all fun row => row.all ok

/-- Green sites (rule R12). -/
def isGreen (p : Pattern) (r c : Nat) : Bool :=
  match p with
  | .rggb => (r + c) % 2 == 1
  | .grbg => (r + c) % 2 == 0

/-- Red rows are the even rows (rule R12). -/
def isRedRow (r : Nat) : Bool := r % 2 == 0

/-- Blue rows are the odd rows (rule R12). -/
def isBlueRow (r : Nat) : Bool := r % 2 == 1

/-- Red sites (rule R12). -/
def isRed (p : Pattern) (r c : Nat) : Bool := isRedRow r && !isGreen p r c

/-- Blue sites (rule R12). -/
def isBlue (p : Pattern) (r c : Nat) : Bool := isBlueRow r && !isGreen p r c

/-- The number of bytes of a sample (rule R21). -/
def SampleBytes.count : SampleBytes → Nat
  | .one => 1
  | .two => 2
  | .four => 4

/-- The largest unsigned value of a width, `2^(8·sw) − 1`; for `SW` it is `M` (rules R5, R22). -/
def SampleBytes.maxSample (sw : SampleBytes) : Int :=
  2 ^ (8 * sw.count) - 1

/-- `CFG.SWC < 2`: the code selects a width of the hardware (rule R32). -/
def Cfg.widthOK (cfg : Cfg) : Bool := decide (cfg.swc.toNat < 2)

/-- `SW` (rule R32). The codes 2 and 3 are refused by every command that needs `SW`, before it uses it. -/
def Cfg.sampleBytes (cfg : Cfg) : SampleBytes :=
  if cfg.swc = 0 then .one
  else if cfg.swc = 1 then .two
  else .four

/-- `M = 2^(8·SW) − 1` (rules R5, R32). -/
def Cfg.maxSample (cfg : Cfg) : Int := cfg.sampleBytes.maxSample

/-- The width tag a command gives slot `k`: 4 for slot 3, else `SW` (rule R25). -/
def Cfg.tagFor (cfg : Cfg) (k : Slot) : SampleBytes :=
  if k.isWide then .four else cfg.sampleBytes

/-- The content of a slot (rule R21). -/
def Memory.slot (m : Memory) : Slot → Option Raster
  | .mosaic => m.mosaic
  | .greenV => m.greenV
  | .greenH => m.greenH
  | .cls => m.cls
  | .green => m.green
  | .red => m.red
  | .blue => m.blue

/-- The buffer space with one slot's content replaced. -/
def Memory.setSlot (m : Memory) (k : Slot) (v : Option Raster) : Memory :=
  match k with
  | .mosaic => { m with mosaic := v }
  | .greenV => { m with greenV := v }
  | .greenH => { m with greenH := v }
  | .cls => { m with cls := v }
  | .green => { m with green := v }
  | .red => { m with red := v }
  | .blue => { m with blue := v }

/-- `S[k].valid` (rule R21). -/
def Memory.valid (m : Memory) (k : Slot) : Bool := (m.slot k).isSome

/-- `S[k].h` (rule R21); an empty slot has `h = 0` (rule R23). -/
def Memory.height (m : Memory) (k : Slot) : Nat :=
  match m.slot k with
  | some ras => ras.plane.h
  | none => 0

/-- `S[k].w` (rule R21); an empty slot has `w = 0` (rule R23). -/
def Memory.width (m : Memory) (k : Slot) : Nat :=
  match m.slot k with
  | some ras => ras.plane.w
  | none => 0

/-- `S[k].sw` (rule R21); of an empty slot the reset value of rule R50, which nothing can observe. -/
def Memory.bytes (m : Memory) (k : Slot) : SampleBytes :=
  match m.slot k with
  | some ras => ras.sw
  | none => if k.isWide then .four else .one

/-- The samples of slot `k` (rule R21); an empty slot has none (rule R23). -/
def Memory.plane (m : Memory) (k : Slot) : Plane :=
  match m.slot k with
  | some ras => ras.plane
  | none => { h := 0, w := 0, rows := [] }

/-- `DimOK(H, W)` (rule R7). -/
def dimOK (p : Params) (h w : Nat) : Bool :=
  decide (2 ≤ h) && decide (2 ≤ w) && h % 2 == 0 && w % 2 == 0 && decide (h ≤ p.maxDim) &&
    decide (w ≤ p.maxDim) && decide (h * w ≤ p.capPixels)

/-- `DimOK(DIM.H, DIM.W)`. -/
def State.dimsOK (s : State) : Bool :=
  dimOK s.params s.dim.h.toNat s.dim.w.toNat

/-- `ShapeOK(k)` (rule R24). -/
def State.shapeOK (s : State) (k : Slot) : Bool :=
  match s.mem.slot k with
  | some ras =>
    ras.plane.h == s.dim.h.toNat && ras.plane.w == s.dim.w.toNat &&
      (k.isWide || ras.sw == s.cfg.sampleBytes)
  | none => false

/-- The samples of an input slot of a stage command, taken at the shape `DIM` as the command rules take them
(`H, W <- DIM`); `ShapeOK` makes it the slot's own shape. -/
def State.input (s : State) (k : Slot) : Plane :=
  { h := s.dim.h.toNat, w := s.dim.w.toNat, rows := (s.mem.plane k).rows }

/-- A sample of slot kind `k` at width `sw` is in the range of rule R22. -/
def inRange (k : Slot) (sw : SampleBytes) (v : Int) : Bool :=
  if k.isWide then decide (-(2 ^ 31) ≤ v) && decide (v ≤ 2 ^ 31 - 1)
  else decide (0 ≤ v) && decide (v ≤ sw.maxSample)

/-- The width tags a slot can have: 4 for slot 3, else 1 or 2 (rule R21). -/
def tagOK (k : Slot) (sw : SampleBytes) : Bool :=
  if k.isWide then sw == .four else sw != .four

/-- The form a valid slot's content has: a tag of the slot's kind, a legal shape, `h` rows of `w` samples, every
sample in range (rules R7, R21, R22). -/
def Raster.wf (p : Params) (k : Slot) (ras : Raster) : Bool :=
  tagOK k ras.sw && dimOK p ras.plane.h ras.plane.w && ras.plane.wellShaped &&
    ras.plane.allSamples (inRange k ras.sw)

/-- The form of one slot. -/
def slotWf (p : Params) (k : Slot) : Option Raster → Bool
  | some ras => ras.wf p k
  | none => true

/-- The form of the buffer space: every valid slot has the form of its kind. -/
def Memory.wf (p : Params) (m : Memory) : Bool :=
  slotWf p .mosaic m.mosaic && slotWf p .greenV m.greenV && slotWf p .greenH m.greenH && slotWf p .cls m.cls &&
    slotWf p .green m.green && slotWf p .red m.red && slotWf p .blue m.blue

end Sys2Proof.Machine
end

