-- ==== Sys2Proof/Machine/Flags.lean ====
section
/-!
DEFINITION. The values of the registers as words: `STATUS` with its flags, `STAGE` and `CAUSE` (rules R35, R36), `CFG`
(R32), `DIM` (R33), `CTRL` (R37), `BUF_SEL` (R38), `BUF_POS` (R39), `VALID` (R41), `FAULT_INFO` (R42), and the interrupt
line (R277). No arithmetic result sets a flag (rule R35).
-/
namespace Sys2Proof.Machine

/-- One bit as a 1-bit field. -/
def bitOf (b : Bool) : BitVec 1 := if b then 1 else 0

/-- Bit `n` of a word. -/
def wordBit (d : Word) (n : Nat) : Bool := d.getLsbD n

/-- `STATUS.BUSY`: 1 exactly when `ES = BUSY` (rule R35). -/
def Engine.isBusy : Engine → Bool
  | .idle => false
  | .busy _ => true
  | .faulted _ _ => false

/-- `STATUS.FAULT`: 1 exactly when `ES = FAULTED` (rule R35). -/
def Engine.isFaulted : Engine → Bool
  | .idle => false
  | .busy _ => false
  | .faulted _ _ => true

/-- The code of a stage (rule R36). -/
def Stage.code : Stage → BitVec 4
  | .interpolate => 1
  | .classify => 2
  | .merge => 3
  | .reconstruct => 4
  | .bufferOp => 5

/-- The code of a fault cause (rule R270). -/
def FaultCause.code : FaultCause → BitVec 8
  | .illCmd => 1
  | .cfgErr => 2
  | .dimErr => 3
  | .noBuf => 4
  | .shape => 5

/-- `STATUS.STAGE` (rule R36): 0 when not busy. -/
def Engine.stageField : Engine → BitVec 4
  | .idle => 0
  | .busy st => st.code
  | .faulted _ _ => 0

/-- `STATUS.CAUSE` (rule R36): 0 when `FAULT = 0`. -/
def Engine.causeField : Engine → BitVec 8
  | .idle => 0
  | .busy _ => 0
  | .faulted c _ => c.code

/-- `FAULT_INFO` (rule R42): 0 when `FAULT = 0`. -/
def Engine.infoWord : Engine → Word
  | .idle => 0
  | .busy _ => 0
  | .faulted _ info => info

/-- `STATUS` as read (rules R35, R36). -/
def State.statusWord (s : State) : Word :=
  0#16 ++ s.engine.causeField ++ s.engine.stageField ++ bitOf s.oob ++ bitOf s.engine.isFaulted ++ bitOf s.done ++
    bitOf s.engine.isBusy

/-- A write to `STATUS`: write-1-to-clear on bits 1 and 3, all other written bits ignored (rule R35). -/
def State.writeStatus (s : State) (d : Word) : State :=
  { s with done := s.done && !wordBit d 1, oob := s.oob && !wordBit d 3 }

/-- The code of a pattern in `CFG.PATTERN` (rule R32). -/
def Pattern.code : Pattern → BitVec 1
  | .rggb => 0
  | .grbg => 1

/-- `CFG` as read (rule R32): reserved bits 0. -/
def Cfg.word (c : Cfg) : Word :=
  0#26 ++ bitOf c.vecEn ++ bitOf c.parEn ++ 0#1 ++ c.swc ++ c.pattern.code

/-- `CFG` as written (rule R32): reserved bits ignored. -/
def Cfg.ofWord (d : Word) : Cfg :=
  { pattern := if wordBit d 0 then .grbg else .rggb
    swc := d.extractLsb' 1 2
    parEn := wordBit d 4
    vecEn := wordBit d 5 }

/-- `DIM` as read (rule R33). -/
def Dim.word (x : Dim) : Word := x.h ++ x.w

/-- `DIM` as written (rule R33). -/
def Dim.ofWord (d : Word) : Dim :=
  { h := d.extractLsb' 16 16, w := d.extractLsb' 0 16 }

/-- `CTRL` as read (rule R37): reserved bits and `SRST` 0. -/
def Ctrl.word (c : Ctrl) : Word :=
  0#30 ++ bitOf c.ieFault ++ bitOf c.ieDone

/-- `CTRL` as written with `SRST = 0` (rule R37). -/
def Ctrl.ofWord (d : Word) : Ctrl :=
  { ieDone := wordBit d 0, ieFault := wordBit d 1 }

/-- `BUF_SEL` as read (rule R38). -/
def bufSelWord (k : BitVec 4) : Word := 0#28 ++ k

/-- `BUF_POS` as read (rule R39). -/
def BufPos.word (x : BufPos) : Word := x.row ++ x.col

/-- `BUF_POS` as written (rule R39). -/
def BufPos.ofWord (d : Word) : BufPos :=
  { row := d.extractLsb' 16 16, col := d.extractLsb' 0 16 }

/-- `VALID` as read (rule R41). -/
def Memory.validWord (m : Memory) : Word :=
  0#25 ++ bitOf (m.valid .blue) ++ bitOf (m.valid .red) ++ bitOf (m.valid .green) ++ bitOf (m.valid .cls) ++
    bitOf (m.valid .greenH) ++ bitOf (m.valid .greenV) ++ bitOf (m.valid .mosaic)

/-- `ID` (rule R31). -/
def idWord : Word := 0x4D440007

/-- The interrupt line (rule R277). -/
def State.irq (s : State) : Bool :=
  (s.done && s.ctrl.ieDone) || (s.engine.isFaulted && s.ctrl.ieFault)

end Sys2Proof.Machine
end

