-- ==== Sys2Proof/Machine/Ops.lean ====
section
/-!
DEFINITION. The operations the commands and the host accesses share: reset (rules R300, R301), slot construction (R25),
the acceptance of a command with its checks (R230, R234, R271), fault entry (R272), the engine's completion of a stage
(R233), and the buffer port (R63 to R65).
-/
namespace Sys2Proof.Machine

/-- Reset, hard or soft (rules R50, R300, R301). The parameters, the host's coming accesses and the word it read last
are not state of the block and stay (log entry 13). -/
def State.resetBlock (s : State) : State :=
  { State.resetWith s.params with inputs := s.inputs, readData := s.readData }

/-- The buffer space with slot `k` written. -/
def State.setSlot (s : State) (k : Slot) (v : Option Raster) : State :=
  { s with mem := s.mem.setSlot k v }

/-- Slot construction by a command: `S[k] <- (DIM.H, DIM.W, sw, f)` with `sw` the width tag of the slot's kind (rule
R25); `b` is the command's result, of the shape `DIM`. -/
def State.construct (s : State) (k : Slot) (b : Plane) : State :=
  s.setSlot k (some { sw := s.cfg.tagFor k, plane := b })

/-- Fault entry, `raise F(info)` (rule R272). `STATUS.BUSY`, `STAGE` and `DONE` are 0 already, and `CUR_CMD` holds the
offending word. -/
def State.raise (s : State) (cause : FaultCause) (info : Word) : State :=
  { s with engine := .faulted cause info }

/-- The leaving of the faulted state: there is no return from a fault and no retry; the one exit is reset (rule
R273). -/
def State.leaveFaulted (s : State) : State := s.resetBlock

/-- The first effect of a `CMD` write accepted in `IDLE`: `CUR_CMD <- x`, `STATUS.DONE <- 0` (rule R230). -/
def State.latchCommand (s : State) (x : Word) : State :=
  { s with curCmd := x, done := false }

/-- `ES <- BUSY`, `STATUS.STAGE <- stage` (rule R230). -/
def State.start (s : State) (stage : Stage) : State :=
  { s with engine := .busy stage }

/-- The end of a command: `STATUS.STAGE <- 0`, `ES <- IDLE`, `STATUS.DONE <- 1` (rule R233). -/
def State.finish (s : State) : State :=
  { s with engine := .idle, done := true }

/-- An acceptance check (rule R271). -/
inductive Check where
  /-- `ILLCMD`: the command is legal. -/
  | legal (i : Instr)
  /-- `CFGERR`: the command needs the sample width and `CFG.SWC < 2`. -/
  | width
  /-- `DIMERR`: `DimOK(DIM.H, DIM.W)`. -/
  | dims
  /-- `NOBUF(k)`: slot `k` is valid. -/
  | hasBuf (k : Slot)
  /-- `SHAPE(k)`: `ShapeOK(k)`. -/
  | hasShape (k : Slot)
deriving DecidableEq, Repr

/-- The slot number as `FAULT_INFO` records it (rule R270). -/
def slotInfo (k : Slot) : Word := 0#28 ++ k.num

/-- What a check reports when it fails: the cause and the recorded information (rule R270). -/
def checkFault (s : State) : Check → Option (FaultCause × Word)
  | .legal i => if i.legal then none else some (.illCmd, encode i)
  | .width => if s.cfg.widthOK then none else some (.cfgErr, s.cfg.word)
  | .dims => if s.dimsOK then none else some (.dimErr, s.dim.word)
  | .hasBuf k => if s.mem.valid k then none else some (.noBuf, slotInfo k)
  | .hasShape k => if s.shapeOK k then none else some (.shape, slotInfo k)

/-- The first check that fails is the one reported; later checks are not made (rule R271). -/
def firstFault (s : State) (checks : List Check) : Option (FaultCause × Word) :=
  checks.findSome? (checkFault s)

/-- The checks of the input slots of a stage command: `NOBUF` then `SHAPE` for each slot in the listed order (rules
R234, R271). -/
def inputChecks : List Slot → List Check
  | [] => []
  | k :: rest => .hasBuf k :: .hasShape k :: inputChecks rest

/-- The checks of a stage command with the given input slots (rules R234, R271). -/
def stageChecks (i : Instr) (slots : List Slot) : List Check :=
  [.legal i, .width, .dims] ++ inputChecks slots

/-- The acceptance checks by command, in the order they are made (rules R234, R271). -/
def acceptanceChecks (i : Instr) : List Check :=
  match i with
  | .igdH => stageChecks i [.mosaic]
  | .igdV => stageChecks i [.mosaic]
  | .igdVH => stageChecks i [.mosaic]
  | .ccd => stageChecks i [.mosaic, .greenV, .greenH]
  | .mrg => stageChecks i [.greenV, .greenH, .cls]
  | .rrb => stageChecks i [.mosaic, .cls, .green]
  | .demosaic => stageChecks i [.mosaic]
  | .balloc d => .legal i :: (if d.isWide then [] else [.width]) ++ [.dims]
  | .bcopy d s => .legal i :: (if s.isWide && !d.isWide then [.width] else []) ++ [.hasBuf s]
  | .bmove _ s => [.legal i, .hasBuf s]
  | .bfree _ => [.legal i]
  | .refine _ => [.legal i]

/-- The acceptance of a command in `IDLE` (rule R230): the word is latched, the checks are made in order, and the
command either starts at its first stage or raises the fault of the first check that fails. -/
def State.accept (s : State) (i : Instr) (first : Stage) : State :=
  match firstFault (s.latchCommand (encode i)) (acceptanceChecks i) with
  | some (cause, info) => (s.latchCommand (encode i)).raise cause info
  | none => (s.latchCommand (encode i)).start first

/-- A word that is no command by name, accepted in `IDLE` (rules R97, R230): `ILLCMD` with the word as information. -/
def State.acceptIllegal (s : State) (x : Word) : State :=
  (s.latchCommand x).raise .illCmd x

/-- What presenting a command of one stage, or the engine's turn at it, does in each engine state (rules R230, R233):
in `IDLE` it is accepted; in `BUSY` the engine executes the stage and the command is finished; in `FAULTED` nothing
changes. `work` is the stage's effect on the slots. -/
def runSingleStage (i : Instr) (stage : Stage) (work : State → State) (s : State) :
    Host.Outcome State Fault Refusal :=
  match s.engine with
  | .idle => .next (s.accept i stage)
  | .busy st => if st = stage then .next (work s).finish else .fault .stageOfAnotherCommand
  | .faulted _ _ => .next s

/-- `BUF_POS` after a `BUF_DATA` access (rule R65). -/
def State.advancePos (s : State) : BufPos :=
  match Slot.ofNum s.bufSel with
  | none => s.bufPos
  | some k =>
    match s.mem.slot k with
    | none => s.bufPos
    | some ras =>
      if s.bufPos.col.toNat + 1 < ras.plane.w then { s.bufPos with col := s.bufPos.col + 1 }
      else { row := s.bufPos.row + 1, col := 0 }

/-- The content of the slot a `BUF_DATA` access reaches and its kind, where the position is in bounds (rules R63,
R64). -/
def State.portTarget (s : State) : Option (Slot × Raster) :=
  match Slot.ofNum s.bufSel with
  | none => none
  | some k =>
    match s.mem.slot k with
    | none => none
    | some ras =>
      if s.bufPos.row.toNat < ras.plane.h ∧ s.bufPos.col.toNat < ras.plane.w then some (k, ras) else none

/-- A sample as the port returns it: zero-extended from a sample slot, two's complement from slot 3 (rule R63). -/
def sampleToWord (v : Int) : Word := BitVec.ofInt 32 v

/-- A written word as a sample: saturating into a sample slot, two's complement into slot 3 (rule R64). -/
def wordToSample (k : Slot) (sw : SampleBytes) (d : Word) : Int :=
  if k.isWide then d.toInt else min (d.toNat : Int) sw.maxSample

/-- The word `PortGet` returns (rule R63). -/
def State.portWord (s : State) : Word :=
  match s.portTarget with
  | some (_, ras) => sampleToWord (ras.plane.sample s.bufPos.row.toNat s.bufPos.col.toNat)
  | none => 0

/-- The state after `PortGet`: `BUF_POS` advanced, `STATUS.OOB` set if out of bounds, no slot changed (rules R63, R65,
R69). -/
def State.portGet (s : State) : State :=
  { s with oob := s.oob || s.portTarget.isNone, bufPos := s.advancePos }

/-- The state after `PortSet` (rules R64, R65). -/
def State.portSet (s : State) (d : Word) : State :=
  match s.portTarget with
  | some (k, ras) =>
    { s.setSlot k (some { ras with
          plane := ras.plane.setSample s.bufPos.row.toNat s.bufPos.col.toNat (wordToSample k ras.sw d) }) with
      bufPos := s.advancePos }
  | none => { s with oob := true, bufPos := s.advancePos }

end Sys2Proof.Machine
end

