-- ==== Sys2Proof/Machine/Primitives.lean ====
section
/-!
DEFINITION. The element-wise and shifted primitives of the datapath (rules R110 to R121), as pure functions on buffer
values. They are micro-operations and no commands (D27). A binary primitive refuses operands of different shapes by
`none` (rule R110(a); U1), and a shifted combine refuses an aliased pair with a nonzero offset (rule R113; U3).
-/
namespace Sys2Proof.Machine

/-- Floor division by a positive number (section 5 of 00_scope.md): Lean's `/` on `Int` rounds down for a positive
divisor. -/
def fdiv (a n : Int) : Int := a / n

/-- Saturating clamp to `0 … M` (rule R111). -/
def clampM (m v : Int) : Int :=
  if v < 0 then 0 else if m < v then m else v

/-- Halving with truncation toward zero (rule R117): the spec's named function `Half`. -/
def tdiv2 (v : Int) : Int :=
  if 0 ≤ v then fdiv v 2 else -(fdiv (-v) 2)

/-- The operation of a shifted combine (rule R113). -/
inductive CombineOp where
  | add
  | sub
deriving DecidableEq, Repr

/-- The operation on two samples. -/
def CombineOp.apply : CombineOp → Int → Int → Int
  | .add, a, b => a + b
  | .sub, a, b => a - b

/-- An operand of a primitive: a buffer by its identity, and its value. Two operands with one identity are the same
buffer (the aliasing of rule R113). -/
structure Operand where
  id : Nat
  value : Plane
deriving DecidableEq, Repr

/-- Two buffer values have one shape (rule R110(a)). -/
def sameShape (b1 b2 : Plane) : Bool := b1.h == b2.h && b1.w == b2.w

/-- The sample of `b1` combined with the sample of `b2` at the offset, or left unchanged where that position is out of
bounds (rule R113). -/
def combineSample (op : CombineOp) (b1 b2 : Plane) (dx dy : Int) (r c : Nat) : Int :=
  if b2.inBounds ((r : Int) + dx) ((c : Int) + dy) then
    op.apply (b1.sample r c) (b2.sample ((r : Int) + dx).toNat ((c : Int) + dy).toNat)
  else b1.sample r c

/-- `ShiftedCombine(b1, b2, dx, dy, op)`: the new value of `b1` (rule R113). -/
def shiftedCombine (op : CombineOp) (b1 b2 : Operand) (dx dy : Int) : Option Plane :=
  if !sameShape b1.value b2.value then none
  else if b1.id = b2.id ∧ ¬(dx = 0 ∧ dy = 0) then none
  else some (Plane.tabulate b1.value.h b1.value.w (combineSample op b1.value b2.value dx dy))

/-- A binary element-wise operation on buffer values of one shape (rule R110). -/
def zipPlanes (f : Int → Int → Int) (b1 b2 : Plane) : Option Plane :=
  if sameShape b1 b2 then
    some (Plane.tabulate b1.h b1.w fun r c => f (b1.sample r c) (b2.sample r c))
  else none

/-- A unary element-wise operation (rule R110(c)). -/
def mapPlane (f : Int → Int) (b : Plane) : Plane :=
  Plane.tabulate b.h b.w fun r c => f (b.sample r c)

/-- `Add(b1, b2)` (rule R116). -/
def addPlanes (b1 b2 : Operand) : Option Plane := shiftedCombine .add b1 b2 0 0

/-- `Sub(b1, b2)` (rule R116). -/
def subPlanes (b1 b2 : Operand) : Option Plane := shiftedCombine .sub b1 b2 0 0

/-- The absolute value of an integer. -/
def absInt (v : Int) : Int := if v < 0 then -v else v

/-- `Abs(b)` (rule R114). -/
def absPlane (b : Plane) : Plane := mapPlane absInt b

/-- `Shr(b, k)`, `0 ≤ k ≤ 31`: floor division by `2^k` (rule R115). -/
def shrPlane (b : Plane) (k : Nat) : Option Plane :=
  if k ≤ 31 then some (mapPlane (fun v => fdiv v (2 ^ k)) b) else none

/-- `SDiv2(b)` (rule R117). -/
def sdiv2Plane (b : Plane) : Plane := mapPlane tdiv2 b

/-- `HalfSub(b1, b2)` (rule R118). -/
def halfSub (b1 b2 : Plane) : Option Plane := zipPlanes (fun x y => tdiv2 x - tdiv2 y) b1 b2

/-- `Widen(b)` (rule R119): the values are preserved. -/
def widen (b : Plane) : Plane := mapPlane (fun v => v) b

/-- `NarrowSat(b)` with `M` of the destination's width (rule R120). -/
def narrowSat (m : Int) (b : Plane) : Plane := mapPlane (clampM m) b

/-- `Σ_{k = lo … hi} f k`, 0 if `hi < lo`. -/
def sumRange (lo hi : Nat) (f : Nat → Int) : Int :=
  ((List.range (hi + 1 - lo)).map fun j => f (lo + j)).sum

end Sys2Proof.Machine
end

