-- ==== Sys2Proof/Machine/Buffer.lean ====
section
/-!
DEFINITION. The buffer commands `BALLOC`, `BCOPY`, `BMOVE`, `BFREE` (rules R235 to R238).
-/
namespace Sys2Proof.Machine

/-- A plane of zeros. -/
def zeroPlane (h w : Nat) : Plane := Plane.tabulate h w fun _ _ => 0

/-- The step of `BALLOC d`: the slot is constructed and filled with zeros (rule R235). -/
def allocStage (d : Slot) (s : State) : State :=
  s.construct d (zeroPlane s.dim.h.toNat s.dim.w.toNat)

/-- What `BCOPY d, s` puts into slot `d` from the content of slot `s`, for `d ≠ s`: an exact copy within a kind, `Widen`
into slot 3, `NarrowSat` to `SW` out of it (rule R236). -/
def copiedRaster (cfg : Cfg) (dst src : Slot) (ras : Raster) : Raster :=
  if dst.isWide then { sw := .four, plane := widen ras.plane }
  else if src.isWide then { sw := cfg.sampleBytes, plane := narrowSat cfg.maxSample ras.plane }
  else ras

/-- The step of `BCOPY d, s` (rule R236). -/
def copyStage (dst src : Slot) (s : State) : State :=
  if dst = src then s
  else
    match s.mem.slot src with
    | some ras => s.setSlot dst (some (copiedRaster s.cfg dst src ras))
    | none => s

/-- The step of `BMOVE d, s` (rule R237). -/
def moveStage (dst src : Slot) (s : State) : State :=
  if dst = src then s
  else (s.setSlot dst (s.mem.slot src)).setSlot src none

/-- The step of `BFREE d` (rule R238). -/
def freeStage (d : Slot) (s : State) : State := s.setSlot d none

/-- `BALLOC d` (rule R235). -/
def execBalloc (d : Slot) (s : State) : Host.Outcome State Fault Refusal :=
  runSingleStage (.balloc d) .bufferOp (allocStage d) s

/-- `BCOPY d, s` (rule R236). -/
def execBcopy (dst src : Slot) (s : State) : Host.Outcome State Fault Refusal :=
  runSingleStage (.bcopy dst src) .bufferOp (copyStage dst src) s

/-- `BMOVE d, s` (rule R237). -/
def execBmove (dst src : Slot) (s : State) : Host.Outcome State Fault Refusal :=
  runSingleStage (.bmove dst src) .bufferOp (moveStage dst src) s

/-- `BFREE d` (rule R238). -/
def execBfree (d : Slot) (s : State) : Host.Outcome State Fault Refusal :=
  runSingleStage (.bfree d) .bufferOp (freeStage d) s

end Sys2Proof.Machine
end

