-- ==== Sys2Proof/Machine/Classifier.lean ====
section
/-!
DEFINITION. The classifier difference and the `sliding_window_sum_accumulator` (rules R160 to R173), and the command
`CCD` (rule R171). The machine computes the windowed sum with the accumulator of rules R166 to R169; `windowSum` is the
architectural result of rule R164 and `fusedWindow` the schedule of rule R170.
-/
namespace Sys2Proof.Machine

/-- Absolute chrominance (rule R161). -/
def chrominance (mos g : Plane) : Plane :=
  Plane.tabulate mos.h mos.w fun r c => absInt (mos.sample r c - g.sample r c)

/-- The horizontal gradient (rule R162). -/
def gradientH (ch : Plane) : Plane :=
  Plane.tabulate ch.h ch.w fun r c =>
    if c + 2 < ch.w then absInt (ch.sample r c - ch.sample r (c + 2)) else ch.sample r c

/-- The vertical gradient (rule R162). -/
def gradientV (ch : Plane) : Plane :=
  Plane.tabulate ch.h ch.w fun r c =>
    if r + 2 < ch.h then absInt (ch.sample r c - ch.sample (r + 2) c) else ch.sample r c

/-- The gradient-energy difference `gradH − gradV` (rule R163). -/
def gradientDiff (mos gV gH : Plane) : Plane :=
  Plane.tabulate mos.h mos.w fun r c =>
    (gradientH (chrominance mos gH)).sample r c - (gradientV (chrominance mos gV)).sample r c

/-- The windowed sum at a site: the in-bounds part of the 5×5 neighbourhood (rule R164). -/
def windowSumAt (d : Plane) (r c : Nat) : Int :=
  sumRange (r - 2) (min (d.h - 1) (r + 2)) fun rr =>
    sumRange (c - 2) (min (d.w - 1) (c + 2)) fun cc => d.sample rr cc

/-- The classifier as a value (rule R164). -/
def windowSum (d : Plane) : Plane := Plane.tabulate d.h d.w (windowSumAt d)

/-- The line buffer before row 0 (rule R166). -/
def initialColumns (d : Plane) : List Int :=
  (List.range d.w).map fun c => sumRange 0 (min 2 (d.h - 1)) fun rr => d.sample rr c

/-- The accumulator at the start of a row (rule R167). -/
def initialWindow (w : Nat) (colsum : List Int) : Int :=
  sumRange 0 (min 2 (w - 1)) fun cc => colsum.getD cc 0

/-- The accumulator after the output at column `c`: the column that enters the window of `c + 1` and the one that
leaves it (rule R168). -/
def slideRight (w : Nat) (colsum : List Int) (c : Nat) (acc : Int) : Int :=
  acc + (if c + 3 ≤ w - 1 then colsum.getD (c + 3) 0 else 0) - (if 2 ≤ c then colsum.getD (c - 2) 0 else 0)

/-- The outputs of `n` columns from column `c` on (rule R168). -/
def scanColumns (w : Nat) (colsum : List Int) : Nat → Nat → Int → List Int
  | 0, _, _ => []
  | n + 1, c, acc => acc :: scanColumns w colsum n (c + 1) (slideRight w colsum c acc)

/-- One column sum advanced from row `r` to row `r + 1`: the row that enters and the one that leaves (rule R169). -/
def slideDownColumn (d : Plane) (r c : Nat) (v : Int) : Int :=
  v + (if r + 3 ≤ d.h - 1 then d.sample (r + 3) c else 0) - (if 2 ≤ r then d.sample (r - 2) c else 0)

/-- The line buffer advanced from row `r` to row `r + 1` (rule R169). -/
def slideDown (d : Plane) (r : Nat) (colsum : List Int) : List Int :=
  (List.range d.w).map fun c => slideDownColumn d r c (colsum.getD c 0)

/-- The output rows of `n` rows from row `r` on (rules R167 to R169). -/
def scanRows (d : Plane) : Nat → Nat → List Int → List (List Int)
  | 0, _, _ => []
  | n + 1, r, colsum =>
    scanColumns d.w colsum d.w 0 (initialWindow d.w colsum) :: scanRows d n (r + 1) (slideDown d r colsum)

/-- The `sliding_window_sum_accumulator` (rules R166 to R169). -/
def slidingWindow (d : Plane) : Plane :=
  { h := d.h, w := d.w, rows := scanRows d d.h 0 (initialColumns d) }

/-- One column of the line buffer advanced in place (rule R170). -/
def advanceColumn (d : Plane) (r k : Nat) (colsum : List Int) : List Int :=
  colsum.set k (slideDownColumn d r k (colsum.getD k 0))

/-- The "rest" columns advanced after the last step of a row: `n` columns from column `k` on (rule R170). -/
def advanceRest (d : Plane) (r : Nat) : Nat → Nat → List Int → List Int
  | 0, _, colsum => colsum
  | n + 1, k, colsum => advanceRest d r n (k + 1) (advanceColumn d r k colsum)

/-- The fused scan of `n` columns from column `c` on: column `c − 2` is advanced right after its last use, at step `c`
(rule R170). It gives the outputs and the line buffer. -/
def fusedColumns (d : Plane) (r : Nat) : Nat → Nat → Int → List Int → List Int × List Int
  | 0, _, _, colsum => ([], colsum)
  | n + 1, c, acc, colsum =>
    let rest := fusedColumns d r n (c + 1) (slideRight d.w colsum c acc)
      (if 2 ≤ c then advanceColumn d r (c - 2) colsum else colsum)
    (acc :: rest.1, rest.2)

/-- The rows of the fused schedule; the clean-up advances the columns `max(0, W − 2) … W − 1` (rule R170). -/
def fusedRows (d : Plane) : Nat → Nat → List Int → List (List Int)
  | 0, _, _ => []
  | n + 1, r, colsum =>
    let row := fusedColumns d r d.w 0 (initialWindow d.w colsum) colsum
    row.1 :: fusedRows d n (r + 1) (advanceRest d r (d.w - (d.w - 2)) (d.w - 2) row.2)

/-- The accumulator in its fused schedule (rule R170). -/
def fusedWindow (d : Plane) : Plane :=
  { h := d.h, w := d.w, rows := fusedRows d d.h 0 (initialColumns d) }

/-- The classifier map from slots 0, 1, 2 (rule R171). -/
def State.classifierPlane (s : State) : Plane :=
  slidingWindow (gradientDiff (s.input .mosaic) (s.input .greenV) (s.input .greenH))

/-- The classifier step: `S[3]` (rule R171). -/
def classifyStage (s : State) : State := s.construct .cls s.classifierPlane

/-- `CCD` (rule R171). -/
def execCcd (s : State) : Host.Outcome State Fault Refusal :=
  runSingleStage .ccd .classify classifyStage s

end Sys2Proof.Machine
end

