-- ==== Sys2Proof/Machine/Interpolator.lean ====
section
/-!
DEFINITION. `FIR_green_interpolator` (rules R140 to R149) and its commands `IGD.H`, `IGD.V`, `IGD.VH` (rule R147).
-/
namespace Sys2Proof.Machine

/-- The direction of a pass (rule R13). -/
inductive Direction where
  | horizontal
  | vertical
deriving DecidableEq, Repr

/-- The FIR kernel `w = (−1, 2, 2, 2, −1)` (rules R9, R141). -/
def kernel : List Int := [-1, 2, 2, 2, -1]

/-- `w[k]` (rule R141). -/
def weight (k : Nat) : Int := kernel.getD k 0

/-- The renormalisation table `T`, row by row (rule R143); the entries below the diagonal do not exist and are never
indexed. -/
def renormTable : List (List Int) :=
  [ [-1, 1, 3, 5, 4],
    [0, 2, 4, 6, 5],
    [0, 0, 2, 4, 3],
    [0, 0, 0, 2, 1],
    [0, 0, 0, 0, -1] ]

/-- `T[first][last]` (rule R143). -/
def renorm (first last : Nat) : Int := (renormTable.getD first []).getD last 0

/-- The first included tap: `max(0, 2 − pos)` (rule R142). -/
def firstTap (pos : Nat) : Nat := 2 - pos

/-- The last included tap: `min(4, n + 1 − pos)` (rule R142). -/
def lastTap (n pos : Nat) : Nat := min 4 (n + 1 - pos)

/-- `raw`: the weighted sum of the included taps; `x q` is the sample at axis position `q`, and tap `k` lies at
`pos − 2 + k` (rules R142, R144). -/
def rawSum (n pos : Nat) (x : Nat → Int) : Int :=
  sumRange (firstTap pos) (lastTap n pos) fun k => weight k * x (pos + k - 2)

/-- The estimate along one axis: one division by the table entry of the window, clamped (rule R144). -/
def estimate (m : Int) (n pos : Nat) (x : Nat → Int) : Int :=
  clampM m (fdiv (rawSum n pos x) (renorm (firstTap pos) (lastTap n pos)))

/-- The estimate of a site in a direction (rule R145). -/
def siteEstimate (m : Int) (mos : Plane) (d : Direction) (r c : Nat) : Int :=
  match d with
  | .horizontal => estimate m mos.w c fun q => mos.sample r q
  | .vertical => estimate m mos.h r fun q => mos.sample q c

/-- `FIR(mos, p, d)` (rules R140, R144 to R146): green sites are copied through. -/
def fir (m : Int) (p : Pattern) (d : Direction) (mos : Plane) : Plane :=
  Plane.tabulate mos.h mos.w fun r c =>
    if isGreen p r c then mos.sample r c else siteEstimate m mos d r c

/-- The green plane of one direction from slot 0 (rule R147). -/
def State.firPlane (s : State) (d : Direction) : Plane :=
  fir s.cfg.maxSample s.cfg.pattern d (s.input .mosaic)

/-- The vertical pass: `S[1]` (rule R147). -/
def interpolateV (s : State) : State := s.construct .greenV (s.firPlane .vertical)

/-- The horizontal pass: `S[2]` (rule R147). -/
def interpolateH (s : State) : State := s.construct .greenH (s.firPlane .horizontal)

/-- Both passes; neither reads what the other writes (rules R72, R147). -/
def interpolateVH (s : State) : State := interpolateH (interpolateV s)

/-- `IGD.H` (rule R147). -/
def execIgdH (s : State) : Host.Outcome State Fault Refusal :=
  runSingleStage .igdH .interpolate interpolateH s

/-- `IGD.V` (rule R147). -/
def execIgdV (s : State) : Host.Outcome State Fault Refusal :=
  runSingleStage .igdV .interpolate interpolateV s

/-- `IGD.VH` (rule R147). -/
def execIgdVH (s : State) : Host.Outcome State Fault Refusal :=
  runSingleStage .igdVH .interpolate interpolateVH s

end Sys2Proof.Machine
end

