-- ==== Sys2Proof/Machine/Merge.lean ====
section
/-!
DEFINITION. `directional_classifier_comparator` (rules R190, R191) and the command `MRG` (rule R190).
-/
namespace Sys2Proof.Machine

/-- The comparator: a negative classifier sample prefers the horizontal direction (rule R191). -/
def preferH (k : Int) : Bool := decide (k < 0)

/-- A classifier sample that is not negative prefers the vertical direction (rule R191). -/
def preferV (k : Int) : Bool := decide (0 ≤ k)

/-- The pointwise selection (rule R190). -/
def mergePlanes (gV gH cls : Plane) : Plane :=
  Plane.tabulate gV.h gV.w fun r c =>
    if preferH (cls.sample r c) then gH.sample r c else gV.sample r c

/-- The merged green from slots 1, 2, 3 (rule R190). -/
def State.mergedPlane (s : State) : Plane :=
  mergePlanes (s.input .greenV) (s.input .greenH) (s.input .cls)

/-- The merge step: `S[4]` (rule R190). -/
def mergeStage (s : State) : State := s.construct .green s.mergedPlane

/-- `MRG` (rule R190). -/
def execMrg (s : State) : Host.Outcome State Fault Refusal :=
  runSingleStage .mrg .merge mergeStage s

end Sys2Proof.Machine
end

