-- ==== Sys2Proof/Machine/Reconstruct.lean ====
section
/-!
DEFINITION. `chrominance_reconstruct` (rules R200 to R209) and the command `RRB` (rule R207).
-/
namespace Sys2Proof.Machine

/-- Chrominance to green, unscaled (rule R201). -/
def chromaToGreen (mos g : Plane) : Plane :=
  Plane.tabulate mos.h mos.w fun r c => mos.sample r c - g.sample r c

/-- The sum of the two neighbours in the row, a missing one counting 0 (rules R203, R205). -/
def rowPair (b : Plane) (r c : Nat) : Int :=
  b.get0 (r : Int) ((c : Int) - 1) + b.get0 (r : Int) ((c : Int) + 1)

/-- The sum of the two neighbours in the column, a missing one counting 0 (rules R203, R205). -/
def columnPair (b : Plane) (r c : Nat) : Int :=
  b.get0 ((r : Int) - 1) (c : Int) + b.get0 ((r : Int) + 1) (c : Int)

/-- Phase A, red at a green site (rule R203). -/
def phaseARed (m : Int) (g chr : Plane) (r c : Nat) : Int :=
  clampM m (g.sample r c + tdiv2 (if isRedRow r then rowPair chr r c else columnPair chr r c))

/-- Phase A, blue at a green site (rule R203). -/
def phaseABlue (m : Int) (g chr : Plane) (r c : Nat) : Int :=
  clampM m (g.sample r c + tdiv2 (if isRedRow r then columnPair chr r c else rowPair chr r c))

/-- Red-minus-blue chrominance at green sites (rule R204); the value elsewhere is immaterial and 0 here (log entry
11). -/
def redMinusBlue (m : Int) (p : Pattern) (g chr : Plane) : Plane :=
  Plane.tabulate g.h g.w fun r c =>
    if isGreen p r c then phaseARed m g chr r c - phaseABlue m g chr r c else 0

/-- Phase B, the pair the classifier selects at an off-green site (rule R205). -/
def selectedPair (rb cls : Plane) (r c : Nat) : Int :=
  if preferH (cls.sample r c) then rowPair rb r c else columnPair rb r c

/-- Phase B, blue at a red site (rule R206). -/
def phaseBBlue (m : Int) (mos rb cls : Plane) (r c : Nat) : Int :=
  clampM m (mos.sample r c - tdiv2 (selectedPair rb cls r c))

/-- Phase B, red at a blue site (rule R206). -/
def phaseBRed (m : Int) (mos rb cls : Plane) (r c : Nat) : Int :=
  clampM m (mos.sample r c + tdiv2 (selectedPair rb cls r c))

/-- The red plane (rules R202, R203, R206, R207). -/
def redPlane (m : Int) (p : Pattern) (mos g cls : Plane) : Plane :=
  Plane.tabulate mos.h mos.w fun r c =>
    if isGreen p r c then phaseARed m g (chromaToGreen mos g) r c
    else if isRed p r c then mos.sample r c
    else phaseBRed m mos (redMinusBlue m p g (chromaToGreen mos g)) cls r c

/-- The blue plane (rules R202, R203, R206, R207). -/
def bluePlane (m : Int) (p : Pattern) (mos g cls : Plane) : Plane :=
  Plane.tabulate mos.h mos.w fun r c =>
    if isGreen p r c then phaseABlue m g (chromaToGreen mos g) r c
    else if isBlue p r c then mos.sample r c
    else phaseBBlue m mos (redMinusBlue m p g (chromaToGreen mos g)) cls r c

/-- The red plane from slots 0, 3, 4 (rule R207). -/
def State.redResult (s : State) : Plane :=
  redPlane s.cfg.maxSample s.cfg.pattern (s.input .mosaic) (s.input .green) (s.input .cls)

/-- The blue plane from slots 0, 3, 4 (rule R207). -/
def State.blueResult (s : State) : Plane :=
  bluePlane s.cfg.maxSample s.cfg.pattern (s.input .mosaic) (s.input .green) (s.input .cls)

/-- The reconstruction step: `S[5]`, `S[6]` (rule R207). -/
def reconstructStage (s : State) : State :=
  (s.construct .red s.redResult).construct .blue s.blueResult

/-- `RRB` (rule R207). -/
def execRrb (s : State) : Host.Outcome State Fault Refusal :=
  runSingleStage .rrb .reconstruct reconstructStage s

end Sys2Proof.Machine
end

