-- ==== Sys2Proof/Machine/Orchestrator.lean ====
section
/-!
DEFINITION. The orchestrator: the command `DEMOSAIC` (rule R231), four engine steps in a fixed order, each the step of
the named command; `STATUS.STAGE` says which comes next (rule R233).
-/
namespace Sys2Proof.Machine

/-- `DEMOSAIC` (rules R231, R233): accepted in `IDLE`; in `BUSY` the stage `STATUS.STAGE` is executed and the next one
named, or the command finished after the fourth. -/
def execDemosaic (s : State) : Host.Outcome State Fault Refusal :=
  match s.engine with
  | .idle => .next (s.accept .demosaic .interpolate)
  | .busy .interpolate => .next ((interpolateVH s).start .classify)
  | .busy .classify => .next ((classifyStage s).start .merge)
  | .busy .merge => .next ((mergeStage s).start .reconstruct)
  | .busy .reconstruct => .next (reconstructStage s).finish
  | .busy .bufferOp => .fault .stageOfAnotherCommand
  | .faulted _ _ => .next s

end Sys2Proof.Machine
end

