-- ==== Sys2Proof/Machine/Reserved.lean ====
section
/-!
DEFINITION. The reserved code `REFINE` (rules R97, R261): every word with `OP = 0x14` is illegal and takes the fault
`ILLCMD`; the hardware has no refiner (rule R260).
-/
namespace Sys2Proof.Machine

/-- `REFINE` (rule R261): accepted in `IDLE` it raises `ILLCMD` with the word as information; in `FAULTED` it is
ignored; no engine step belongs to it. -/
def execRefine (payload : BitVec 24) (s : State) : Host.Outcome State Fault Refusal :=
  match s.engine with
  | .idle => .next (s.acceptIllegal (encode (.refine payload)))
  | .busy _ => .fault .stageOfAnotherCommand
  | .faulted _ _ => .next s

end Sys2Proof.Machine
end

