-- ==== Sys2Proof/Machine/Dispatch.lean ====
section
/-!
DEFINITION. The dispatch of commands to their meanings: `exec i s` presents the command `i` to an idle engine, or is
the engine's step of the command `i` in progress (rules R230, R233; log entry 6).
-/
namespace Sys2Proof.Machine

def exec (i : Instr) (s : State) : Host.Outcome State Fault Refusal :=
  match i with
  | .igdH => Sys2Proof.Machine.execIgdH s
  | .igdV => Sys2Proof.Machine.execIgdV s
  | .igdVH => Sys2Proof.Machine.execIgdVH s
  | .ccd => Sys2Proof.Machine.execCcd s
  | .mrg => Sys2Proof.Machine.execMrg s
  | .rrb => Sys2Proof.Machine.execRrb s
  | .demosaic => Sys2Proof.Machine.execDemosaic s
  | .balloc d => Sys2Proof.Machine.execBalloc d s
  | .bcopy d src => Sys2Proof.Machine.execBcopy d src s
  | .bmove d src => Sys2Proof.Machine.execBmove d src s
  | .bfree d => Sys2Proof.Machine.execBfree d s
  | .refine payload => Sys2Proof.Machine.execRefine payload s

end Sys2Proof.Machine
end

