-- ==== Sys2Proof/Machine/Agents.lean ====
section
/-!
DEFINITION. The two agents (rules R70, R280): the engine's step (rule R233), and the host's register accesses with
their hold while busy (rules R60 to R62, R68, R69), the reset input (rule R300), and the schedule between them (log
entry 1).
-/
namespace Sys2Proof.Machine

/-- The engine step of a busy engine: the command in `CUR_CMD` executes its next stage (rule R233). -/
def engineStep (s : State) : Host.Outcome State Fault Refusal :=
  match decode s.curCmd with
  | .ok i => exec i s
  | .error _ => .fault .noCommandInProgress

/-- A `CMD` write of the word `x` with the engine not busy (rules R98, R230): decoded and accepted in `IDLE`, ignored in
`FAULTED`. -/
def writeCommand (x : Word) (s : State) : Host.Outcome State Fault Refusal :=
  match decode x with
  | .ok i => exec i s
  | .error _ =>
    match s.engine with
    | .idle => .next (s.acceptIllegal x)
    | .busy _ => .fault .stageOfAnotherCommand
    | .faulted _ _ => .next s

/-- A write to `CTRL`: soft reset if `SRST` is 1, else the enables (rules R37, R301). -/
def writeCtrl (d : Word) (s : State) : State :=
  if wordBit d 31 then s.leaveFaulted else { s with ctrl := Ctrl.ofWord d }

/-- The word a read returns, by the register's offset (rules R30 to R43, R62). -/
def readWord (off : Nat) (s : State) : Word :=
  if off = 0x00 then idWord
  else if off = 0x04 then s.cfg.word
  else if off = 0x08 then s.dim.word
  else if off = 0x0C then 0
  else if off = 0x10 then s.statusWord
  else if off = 0x14 then s.ctrl.word
  else if off = 0x18 then bufSelWord s.bufSel
  else if off = 0x1C then s.bufPos.word
  else if off = 0x20 then s.portWord
  else if off = 0x24 then s.mem.validWord
  else if off = 0x28 then s.engine.infoWord
  else if off = 0x2C then s.curCmd
  else 0

/-- A completed read: the word is returned; only a read of `BUF_DATA` has a side effect (rule R69). -/
def readRegister (off : Nat) (s : State) : State :=
  if off = 0x20 then { s.portGet with readData := some (readWord off s) }
  else { s with readData := some (readWord off s) }

/-- A performed write, by the register's offset (rules R30 to R43, R62, R69); writes to read-only registers and to
unmapped offsets are ignored. -/
def writeRegister (off : Nat) (d : Word) (s : State) : Host.Outcome State Fault Refusal :=
  if off = 0x04 then .next { s with cfg := Cfg.ofWord d }
  else if off = 0x08 then .next { s with dim := Dim.ofWord d }
  else if off = 0x0C then writeCommand d s
  else if off = 0x10 then .next (s.writeStatus d)
  else if off = 0x14 then .next (writeCtrl d s)
  else if off = 0x18 then .next { s with bufSel := d.extractLsb' 0 4 }
  else if off = 0x1C then .next { s with bufPos := BufPos.ofWord d }
  else if off = 0x20 then .next (s.portSet d)
  else .next s

/-- The offset in the window that an access reaches, or why the model refuses the access (rules R61, R62). -/
def accessOffset (p : Params) (width : AccessWidth) (addr : Nat) : Except Refusal Nat :=
  if addr < p.base ∨ p.base + 64 ≤ addr then .error .outsideTheWindow
  else if width = .word ∧ (addr - p.base) % 4 = 0 then .ok (addr - p.base)
  else .error .notAnAlignedWord

/-- The head of the schedule taken off. -/
def State.dropInput (s : State) : State := { s with inputs := s.inputs.tail }

/-- The host's read at an offset: a read of `BUF_DATA` is held while the engine is busy, and the engine steps (rule
R68); any other read completes at once. -/
def hostRead (off : Nat) (s : State) : Host.Outcome State Fault Refusal :=
  if s.engine.isBusy && off == 0x20 then engineStep s
  else .next (readRegister off s.dropInput)

/-- The host's write at an offset: every write is held while the engine is busy, and the engine steps (rule R68). -/
def hostWrite (off : Nat) (d : Word) (s : State) : Host.Outcome State Fault Refusal :=
  if s.engine.isBusy then engineStep s
  else writeRegister off d s.dropInput

/-- The next entry of the schedule. -/
def hostStep (e : HostEvent) (s : State) : Host.Outcome State Fault Refusal :=
  match e with
  | .read width addr =>
    match accessOffset s.params width addr with
    | .ok off => hostRead off s
    | .error why => .refused why
  | .write width addr d =>
    match accessOffset s.params width addr with
    | .ok off => hostWrite off d s
    | .error why => .refused why
  | .hardReset => .next s.dropInput.resetBlock
  | .engineTurn => if s.engine.isBusy then engineStep s.dropInput else .next s.dropInput

/-- One step of the two agents: the next entry of the schedule; with no entry left, the engine's step if it is busy
(rule R312), and otherwise nothing changes: the block waits for the host (rule R302). -/
def agentStep (s : State) : Host.Outcome State Fault Refusal :=
  match s.inputs with
  | e :: _ => hostStep e s
  | [] => if s.engine.isBusy then engineStep s else .next s

/-- The byte address of `CMD` (rules R30, R62). -/
def commandAddress (p : Params) : Nat := p.base + 0x0C

/-- A state in which the very next step is the acceptance of the command word: the engine idle, and the write of the
word to `CMD` the next host access. -/
def State.presentWord (s : State) (x : Word) : State :=
  { s with engine := .idle, inputs := .write .word (commandAddress s.params) x :: s.inputs }

end Sys2Proof.Machine
end

