-- ==== Sys2Proof/Machine/Step.lean ====
section
/-!
DEFINITION. One step of the machine, and the state in which the next step runs a given command word.
-/
namespace Sys2Proof.Machine

/-- One step (rules R70, R71, R280): one atomic step of the host or of the engine. -/
def step (s : State) : Host.Outcome State Fault Refusal := agentStep s

/-- The command word with the bits above `nbits` zero, presented to the block so that the very next step runs it: the
block fetches nothing (rule R45), a command is what the host writes to `CMD` (log entry 6). -/
def State.withFetchWord (s : State) (nbits w : Nat) : State :=
  s.presentWord (BitVec.ofNat 32 (w % 2 ^ nbits))

end Sys2Proof.Machine
end

