-- ==== Sys2Proof/Safety.lean ====
section
/-!
DEFINITION. What a state the block can be in looks like (`State.Inv`), and what a safe step is: a next state, or the
refusal of an access the interface does not have.
-/
namespace Sys2Proof.Machine

/-- The stage is a stage of the command (rules R36, R233). -/
def stageOf (i : Instr) (st : Stage) : Bool :=
  match i with
  | .igdH => st == .interpolate
  | .igdV => st == .interpolate
  | .igdVH => st == .interpolate
  | .ccd => st == .classify
  | .mrg => st == .merge
  | .rrb => st == .reconstruct
  | .demosaic => st != .bufferOp
  | .balloc _ => st == .bufferOp
  | .bcopy _ _ => st == .bufferOp
  | .bmove _ _ => st == .bufferOp
  | .bfree _ => st == .bufferOp
  | .refine _ => false

/-- The checks that guard a stage of a command: those of the command itself, and for a later stage of `DEMOSAIC` those
of the command whose step it is; at the merge also those of slot 0, which the reconstruction reads next and which is
unchanged since acceptance (rule R231). -/
def stageGuards (i : Instr) (st : Stage) : List Check :=
  match i, st with
  | .demosaic, .classify => acceptanceChecks .ccd
  | .demosaic, .merge => acceptanceChecks .mrg ++ inputChecks [.mosaic]
  | .demosaic, .reconstruct => acceptanceChecks .rrb
  | i, _ => acceptanceChecks i

/-- A busy engine has a command in `CUR_CMD`, names one of its stages, and all checks of that stage pass (rules R36, R44,
R230, R231). -/
def engineReady (s : State) : Bool :=
  match s.engine with
  | .busy st =>
    match decode s.curCmd with
    | .ok i => stageOf i st && firstFault s (stageGuards i st) == none
    | .error _ => false
  | .idle => true
  | .faulted _ _ => true

/-- `DONE` is set only in `IDLE` (rules R230, R233, R272). -/
def doneOnlyIdle (s : State) : Bool :=
  !s.done || s.engine == .idle

/-- The invariant of the block: legal parameters, every valid slot in the form of its kind (rules R7, R21, R22), `DONE`
only in `IDLE`, and a busy engine ready for its next stage. -/
def State.Inv (s : State) : Prop :=
  s.params.wf = true ∧ s.mem.wf s.params = true ∧ doneOnlyIdle s = true ∧ engineReady s = true

/-- A safe outcome: the machine goes on, or refuses a register access that the interface does not have (rules R61,
R62). -/
def safeOutcome : Host.Outcome State Fault Refusal → Bool
  | .next _ => true
  | .fault _ => false
  | .refused why => why == .notAnAlignedWord || why == .outsideTheWindow

end Sys2Proof.Machine
end

