-- ==== Sys2Proof/Certificates/Slice0/Obligations.lean ====
section
/-!
DEFINITION. The statements for the provers, and the vocabulary they are stated in: the legal words of the opcode map,
the slots a command reads and writes (rule R234), the reported fault (rule R271), and runs of a command.
-/
namespace Sys2Proof.Machine

/-- The slot numbers in the fields of a format B word (rule R92). -/
def dstNumber (x : Word) : Nat := x.toNat / 2 ^ 20 % 16

/-- The slot numbers in the fields of a format B word (rule R92). -/
def srcNumber (x : Word) : Nat := x.toNat / 2 ^ 16 % 16

/-- The legal command words, by the masks of rule R96 and its further conditions on the slot numbers. -/
def legalWord (x : Word) : Bool :=
  x == 0x10000001 || x == 0x10000002 || x == 0x10000003 || x == 0x11000000 || x == 0x12000000 || x == 0x13000000 ||
    x == 0x1F000000 ||
    (x &&& 0xFF0FFFFF == 0x20000000 && decide (dstNumber x ≤ 6)) ||
    (x &&& 0xFF00FFFF == 0x21000000 && decide (dstNumber x ≤ 6) && decide (srcNumber x ≤ 6)) ||
    (x &&& 0xFF00FFFF == 0x22000000 && decide (dstNumber x ≤ 6) && decide (srcNumber x ≤ 6) &&
      (dstNumber x == 3) == (srcNumber x == 3)) ||
    (x &&& 0xFF0FFFFF == 0x23000000 && decide (dstNumber x ≤ 6))

/-- The command needs the sample width (column `CFGERR` of the table of rule R234). -/
def needsWidth : Instr → Bool
  | .igdH | .igdV | .igdVH | .ccd | .mrg | .rrb | .demosaic => true
  | .balloc d => !d.isWide
  | .bcopy d s => s.isWide && !d.isWide
  | .bmove _ _ | .bfree _ | .refine _ => false

/-- The command checks `DIM` (column `DIMERR` of the table of rule R234). -/
def checksDims : Instr → Bool
  | .igdH | .igdV | .igdVH | .ccd | .mrg | .rrb | .demosaic | .balloc _ => true
  | .bcopy _ _ | .bmove _ _ | .bfree _ | .refine _ => false

/-- A stage command (section 6 of 00_scope.md). -/
def isStageCommand : Instr → Bool
  | .igdH | .igdV | .igdVH | .ccd | .mrg | .rrb | .demosaic => true
  | .balloc _ | .bcopy _ _ | .bmove _ _ | .bfree _ | .refine _ => false

/-- The slots checked, in order (column `in` of the table of rule R234). -/
def checkedSlots : Instr → List Slot
  | .igdH | .igdV | .igdVH | .demosaic => [.mosaic]
  | .ccd => [.mosaic, .greenV, .greenH]
  | .mrg => [.greenV, .greenH, .cls]
  | .rrb => [.mosaic, .cls, .green]
  | .bcopy _ s | .bmove _ s => [s]
  | .balloc _ | .bfree _ | .refine _ => []

/-- The slots written (column `writes` of the table of rule R234). -/
def writtenSlots : Instr → List Slot
  | .igdH => [.greenH]
  | .igdV => [.greenV]
  | .igdVH => [.greenV, .greenH]
  | .ccd => [.cls]
  | .mrg => [.green]
  | .rrb => [.red, .blue]
  | .demosaic => [.greenV, .greenH, .cls, .green, .red, .blue]
  | .balloc d | .bcopy d _ | .bfree d => [d]
  | .bmove d s => [d, s]
  | .refine _ => []

/-- The first stage of a command (rule R230). -/
def firstStage : Instr → Stage
  | .igdH | .igdV | .igdVH | .demosaic => .interpolate
  | .ccd => .classify
  | .mrg => .merge
  | .rrb => .reconstruct
  | .balloc _ | .bcopy _ _ | .bmove _ _ | .bfree _ | .refine _ => .bufferOp

/-- The fault of the first input slot that is empty, or that a stage command finds of another shape (rule R271, check
4). -/
def slotFault (s : State) (stageCmd : Bool) : List Slot → Option (FaultCause × Word)
  | [] => none
  | k :: rest =>
    if s.mem.slot k = none then some (.noBuf, BitVec.ofNat 32 k.num.toNat)
    else if stageCmd && !s.shapeOK k then some (.shape, BitVec.ofNat 32 k.num.toNat)
    else slotFault s stageCmd rest

/-- The fault a command reports, with its information, by the fixed order of rule R271 and the table of rule R234. -/
def reportedFault (s : State) (i : Instr) : Option (FaultCause × Word) :=
  if i.legal = false then some (.illCmd, encode i)
  else if needsWidth i = true ∧ 2 ≤ s.cfg.swc.toNat then some (.cfgErr, s.cfg.word)
  else if checksDims i = true ∧ s.dimsOK = false then some (.dimErr, s.dim.word)
  else slotFault s (isStageCommand i) (checkedSlots i)

/-- The state after the acceptance of a command that passes its checks (rules R230, R232). -/
def acceptedState (s : State) (i : Instr) (stage : Stage) : State :=
  { s with curCmd := encode i, done := false, engine := .busy stage }

/-- The state after a command accepted in `s` has finished with the slots `m` (rules R232, R233): nothing but the slots,
`CUR_CMD`, `DONE` and the engine state differs from `s`. -/
def completedState (s : State) (i : Instr) (m : Memory) : State :=
  { s with curCmd := encode i, done := true, engine := .idle, mem := m }

/-- The state after a fault of a command word accepted in `s` (rules R230, R272). -/
def faultedState (s : State) (x : Word) (cause : FaultCause) (info : Word) : State :=
  { s with curCmd := x, done := false, engine := .faulted cause info }

/-- A command presented to an idle engine makes its checks: the first that fails is reported, and if none does, the
command starts (rules R230, R234, R271, R272). -/
def AcceptsByItsChecks (i : Instr) : Prop :=
  ∀ s : State, s.engine = .idle →
    exec i s = .next (
      match reportedFault s i with
      | some (cause, info) => faultedState s (encode i) cause info
      | none => acceptedState s i (firstStage i))

/-- Presented in `s`, the command is accepted, and the engine step that follows finishes it with the slots `m`. -/
def CompletesWith (s : State) (i : Instr) (stage : Stage) (m : Memory) : Prop :=
  exec i s = .next (acceptedState s i stage) ∧
    exec i (acceptedState s i stage) = .next (completedState s i m)

/-- A stage command with the given input slots passes its checks in an idle engine (rule R234). -/
def StageReady (s : State) (slots : List Slot) : Prop :=
  s.engine = .idle ∧ s.cfg.swc.toNat < 2 ∧ s.dimsOK = true ∧ ∀ k ∈ slots, s.shapeOK k = true

/-- `n` executions of a command one after the other, the first its acceptance if the engine is idle. -/
def execTimes (i : Instr) : Nat → State → Host.Outcome State Fault Refusal
  | 0, s => .next s
  | n + 1, s =>
    match exec i s with
    | .next t => execTimes i n t
    | .fault r => .fault r
    | .refused r => .refused r

/-- `n` steps of the machine. -/
def runSteps : Nat → State → Host.Outcome State Fault Refusal
  | 0, s => .next s
  | n + 1, s =>
    match step s with
    | .next t => runSteps n t
    | .fault r => .fault r
    | .refused r => .refused r

/-- The next host access is a read of the register at an offset, the accesses `rest` after it. -/
def ReadsNext (s : State) (off : Nat) (rest : List HostEvent) : Prop :=
  s.inputs = .read .word (s.params.base + off) :: rest

/-- The next host access is a write of `d` to the register at an offset, the accesses `rest` after it. -/
def WritesNext (s : State) (off : Nat) (d : Word) (rest : List HostEvent) : Prop :=
  s.inputs = .write .word (s.params.base + off) d :: rest

/-- Every piece of the block's state is at its reset value: the engine idle, every slot empty with its reset tag, every
register 0 but `ID`, the interrupt line 0 (the table of rule R50). -/
def AtReset (s : State) : Prop :=
  s.engine = .idle ∧
    (∀ k, s.mem.valid k = false ∧ s.mem.height k = 0 ∧ s.mem.width k = 0 ∧
      s.mem.bytes k = if k = .cls then .four else .one) ∧
    readWord 0x00 s = 0x4D440007 ∧
    (∀ off ∈ [0x04, 0x08, 0x0C, 0x10, 0x14, 0x18, 0x1C, 0x24, 0x28, 0x2C], readWord off s = 0) ∧ s.irq = false

/-- The offsets of the window's words (rules R30, R62). -/
def IsOffset (off : Nat) : Prop := off < 64 ∧ off % 4 = 0

/-- The offsets of the registers (rule R30); the words from 0x30 on are unmapped. -/
def IsRegister (off : Nat) : Prop := off < 0x30 ∧ off % 4 = 0

/-- The port selects slot `k` with content `ras`, and the position is in bounds (rules R63, R64). -/
def PortInBounds (s : State) (k : Slot) (ras : Raster) : Prop :=
  Slot.ofNum s.bufSel = some k ∧ s.mem.slot k = some ras ∧ s.bufPos.row.toNat < ras.plane.h ∧
    s.bufPos.col.toNat < ras.plane.w

/-- `n` reads of `BUF_DATA`: the words returned and the state after them (rule R63). -/
def portReads : Nat → State → List Word × State
  | 0, s => ([], s)
  | n + 1, s => (s.portWord :: (portReads n s.portGet).1, (portReads n s.portGet).2)

/-- A plane with rows and columns exchanged. -/
def transposed (b : Plane) : Plane := Plane.tabulate b.w b.h fun r c => b.sample c r

/-- The samples in bounds are in `0 … m`. -/
def SamplesIn (b : Plane) (m : Int) : Prop :=
  ∀ r c, r < b.h → c < b.w → 0 ≤ b.sample r c ∧ b.sample r c ≤ m

/-- A plane of one constant. -/
def flatPlane (h w : Nat) (v : Int) : Plane := Plane.tabulate h w fun _ _ => v

/-- The mosaic of a constant colour patch: red sites `a`, green sites `g`, blue sites `b` (rule R208). -/
def patchMosaic (p : Pattern) (h w : Nat) (a g b : Int) : Plane :=
  Plane.tabulate h w fun r c => if isGreen p r c then g else if isRed p r c then a else b

/-- The classifier map that the pipeline computes from a mosaic (rule R231, stages 1 and 2). -/
def pipelineClassifier (m : Int) (p : Pattern) (mos : Plane) : Plane :=
  slidingWindow (gradientDiff mos (fir m p .vertical mos) (fir m p .horizontal mos))

/-- The merged green that the pipeline computes from a mosaic (rule R231, stages 1 to 3). -/
def pipelineGreen (m : Int) (p : Pattern) (mos : Plane) : Plane :=
  mergePlanes (fir m p .vertical mos) (fir m p .horizontal mos) (pipelineClassifier m p mos)

/-- The red plane that the pipeline computes from a mosaic (rule R231). -/
def pipelineRed (m : Int) (p : Pattern) (mos : Plane) : Plane :=
  redPlane m p mos (pipelineGreen m p mos) (pipelineClassifier m p mos)

/-- The blue plane that the pipeline computes from a mosaic (rule R231). -/
def pipelineBlue (m : Int) (p : Pattern) (mos : Plane) : Plane :=
  bluePlane m p mos (pipelineGreen m p mos) (pipelineClassifier m p mos)

/-- The distance of a site to every border is at least `n`. -/
def Inside (h w n r c : Nat) : Prop := n ≤ r ∧ r + n < h ∧ n ≤ c ∧ c + n < w

/-- A difference of two planes at a position, 0 out of bounds (rules R112, R201, R204). -/
def differenceAt (b1 b2 : Plane) (r c : Int) : Int :=
  if 0 ≤ r ∧ r < b1.h ∧ 0 ≤ c ∧ c < b1.w then b1.sample r.toNat c.toNat - b2.sample r.toNat c.toNat else 0

/-- The sum of a difference at the two neighbours in the row (rules R203, R205). -/
def rowNeighbours (b1 b2 : Plane) (r c : Nat) : Int :=
  differenceAt b1 b2 r ((c : Int) - 1) + differenceAt b1 b2 r ((c : Int) + 1)

/-- The sum of a difference at the two neighbours in the column (rules R203, R205). -/
def columnNeighbours (b1 b2 : Plane) (r c : Nat) : Int :=
  differenceAt b1 b2 ((r : Int) - 1) c + differenceAt b1 b2 ((r : Int) + 1) c

/-- Tap `k` of a site at `pos` on an axis of length `n` is in bounds (rule R142). -/
def tapIncluded (n pos k : Nat) : Bool := decide (2 ≤ pos + k) && decide (pos + k < n + 2)

/-- The weighted sum of the included taps, tap by tap (rules R142, R144). -/
def tapSum (n pos : Nat) (x : Nat → Int) : Int :=
  ((List.range 5).map fun k => if tapIncluded n pos k then weight k * x (pos + k - 2) else 0).sum

/-- The sum of the weights of the included taps, tap by tap (rules R142, R143). -/
def tapWeights (n pos : Nat) : Int :=
  ((List.range 5).map fun k => if tapIncluded n pos k then weight k else 0).sum

/-- The sum over the positions of the plane at distance at most 2 in the row and in the column (rule R164). -/
def neighbourhoodSum (d : Plane) (r c : Nat) : Int :=
  ((List.range d.h).map fun rr =>
    ((List.range d.w).map fun cc =>
      if rr ≤ r + 2 ∧ r ≤ rr + 2 ∧ cc ≤ c + 2 ∧ c ≤ cc + 2 then d.sample rr cc else 0).sum).sum

/-- The stage after a stage of `DEMOSAIC` (rule R233). -/
def followingStage : Stage → Option Stage
  | .interpolate => some .classify
  | .classify => some .merge
  | .merge => some .reconstruct
  | .reconstruct => none
  | .bufferOp => none

/-- The next entry of the schedule resets the block: the `reset` input, or a soft reset that is not held (rules R300,
R301). -/
def ResetNext (s : State) : Prop :=
  (∃ rest, s.inputs = .hardReset :: rest) ∨
    (s.engine.isBusy = false ∧ ∃ d rest, WritesNext s 0x14 d rest ∧ d.getLsbD 31 = true)

/-- The state with the capability flags of `CFG` set to given values (rule R10). -/
def withCapabilities (s : State) (par vec : Bool) : State :=
  { s with cfg := { s.cfg with parEn := par, vecEn := vec } }

/-- Two states agree on what a stage command may depend on: `DIM`, `CFG.PATTERN`, `CFG.SWC` and the listed slots (rule
R48). -/
def AgreeOn (slots : List Slot) (s t : State) : Prop :=
  s.dim = t.dim ∧ s.cfg.pattern = t.cfg.pattern ∧ s.cfg.swc = t.cfg.swc ∧
    ∀ k ∈ slots, s.mem.slot k = t.mem.slot k

end Sys2Proof.Machine

section

open Sys2Proof Sys2Proof.Machine

/-! ### Encoding -/

/-- No bit of an encoding is dropped: decoding the word of a well-formed command gives the command back. -/
def Obligations.DecodeAfterEncode : Prop :=
  ∀ i : Instr, i.wellFormed = true → decode (encode i) = .ok i

/-- A word the decoder accepts is the one word of its command, and the command is well-formed. -/
def Obligations.EncodeAfterDecode : Prop :=
  ∀ (x : Word) (i : Instr), decode x = .ok i → encode i = x ∧ i.wellFormed = true

/-- Rule R96: the legal words are those of the map with its conditions on the slot fields; at most one row matches a
word; and the decoder names the row's mnemonic. -/
def Obligations.LegalWordsAreThoseOfTheMap : Prop :=
  (∀ x : Word, legalWord x = true ↔ ∃ i, decode x = .ok i ∧ i.legal = true) ∧
  (∀ (x : Word), ∀ r1 ∈ opcodeTable, ∀ r2 ∈ opcodeTable, r1.holds x = true → r2.holds x = true → r1 = r2) ∧
  (∀ (x : Word) (i : Instr), decode x = .ok i →
    ∃ row ∈ opcodeTable, row.holds x = true ∧ row.mnemonic = i.mnemonic)

/-- Words written out from rule R96 decode to the commands they stand for (a sanity statement). -/
def Obligations.SpecWordsDecode : Prop :=
  decode 0x10000001 = .ok .igdH ∧ decode 0x10000002 = .ok .igdV ∧ decode 0x10000003 = .ok .igdVH ∧
  decode 0x11000000 = .ok .ccd ∧ decode 0x12000000 = .ok .mrg ∧ decode 0x13000000 = .ok .rrb ∧
  decode 0x1F000000 = .ok .demosaic ∧ decode 0x20600000 = .ok (.balloc .blue) ∧
  decode 0x21430000 = .ok (.bcopy .green .cls) ∧ decode 0x22040000 = .ok (.bmove .mosaic .green) ∧
  decode 0x23300000 = .ok (.bfree .cls) ∧ decode 0x23100000 = .ok (.bfree .greenV) ∧
  decode 0x23200000 = .ok (.bfree .greenH) ∧ decode 0x23500000 = .ok (.bfree .red) ∧ decode 0x20700000 = .error .noSuchSlot ∧
  decode 0x22340000 = .error .mixedKinds ∧ decode 0x00000000 = .error .unknownOpcode

/-! ### Primitives -/

/-- Rule R111. -/
def Obligations.ClampSaturates : Prop :=
  ∀ m v : Int, 0 ≤ m →
    (v < 0 → clampM m v = 0) ∧ (m < v → clampM m v = m) ∧ (0 ≤ v → v ≤ m → clampM m v = v) ∧
    0 ≤ clampM m v ∧ clampM m v ≤ m

/-- Rule R112. -/
def Obligations.SafeGetIsZeroOutside : Prop :=
  ∀ (b : Plane) (r c : Int),
    (0 ≤ r ∧ r < b.h ∧ 0 ≤ c ∧ c < b.w → b.get0 r c = b.sample r.toNat c.toNat) ∧
    (¬(0 ≤ r ∧ r < b.h ∧ 0 ≤ c ∧ c < b.w) → b.get0 r c = 0)

/-- Rule R113: the samples of a shifted combine, and the two preconditions under which it has a meaning. -/
def Obligations.ShiftedCombineIsPointwise : Prop :=
  ∀ (op : CombineOp) (b1 b2 : Operand) (dx dy : Int),
    (¬(b1.value.h = b2.value.h ∧ b1.value.w = b2.value.w) → shiftedCombine op b1 b2 dx dy = none) ∧
    (b1.id = b2.id → ¬(dx = 0 ∧ dy = 0) → shiftedCombine op b1 b2 dx dy = none) ∧
    (b1.value.h = b2.value.h → b1.value.w = b2.value.w → (b1.id = b2.id → dx = 0 ∧ dy = 0) →
      ∃ out, shiftedCombine op b1 b2 dx dy = some out ∧ out.h = b1.value.h ∧ out.w = b1.value.w ∧
        ∀ x y : Nat, x < out.h → y < out.w →
          (0 ≤ (x : Int) + dx ∧ (x : Int) + dx < out.h ∧ 0 ≤ (y : Int) + dy ∧ (y : Int) + dy < out.w →
            out.sample x y =
              match op with
              | .add => b1.value.sample x y + b2.value.sample ((x : Int) + dx).toNat ((y : Int) + dy).toNat
              | .sub => b1.value.sample x y - b2.value.sample ((x : Int) + dx).toNat ((y : Int) + dy).toNat) ∧
          (¬(0 ≤ (x : Int) + dx ∧ (x : Int) + dx < out.h ∧ 0 ≤ (y : Int) + dy ∧ (y : Int) + dy < out.w) →
            out.sample x y = b1.value.sample x y))

/-- Rule R116: with a zero offset the shifted combine is the plain element-wise operation. -/
def Obligations.ZeroOffsetCombineIsElementwise : Prop :=
  ∀ b1 b2 : Operand,
    addPlanes b1 b2 = zipPlanes (fun x y => x + y) b1.value b2.value ∧
    subPlanes b1 b2 = zipPlanes (fun x y => x - y) b1.value b2.value

/-- Rules R114, R115, R117, R118, R119, R120: the remaining primitives, sample by sample. -/
def Obligations.ElementwisePrimitives : Prop :=
  ∀ (b b2 : Plane) (m : Int) (k r c : Nat), r < b.h → c < b.w → k ≤ 31 → b2.h = b.h → b2.w = b.w → 0 ≤ m →
    (absPlane b).sample r c = ((b.sample r c).natAbs : Int) ∧
    (∃ out, shrPlane b k = some out ∧ out.sample r c * 2 ^ k ≤ b.sample r c ∧
      b.sample r c < (out.sample r c + 1) * 2 ^ k) ∧
    (sdiv2Plane b).sample r c = Int.tdiv (b.sample r c) 2 ∧
    (∃ out, halfSub b b2 = some out ∧
      out.sample r c = Int.tdiv (b.sample r c) 2 - Int.tdiv (b2.sample r c) 2) ∧
    (widen b).sample r c = b.sample r c ∧
    (narrowSat m b).sample r c = max 0 (min m (b.sample r c))

/-! ### Sites and shapes -/

/-- Rule R12: the green, red and blue sites of the two patterns, and the red and blue rows. -/
def Obligations.SitesFollowThePattern : Prop :=
  ∀ r c : Nat,
    (isGreen .rggb r c = true ↔ (r + c) % 2 = 1) ∧ (isGreen .grbg r c = true ↔ (r + c) % 2 = 0) ∧
    (isRedRow r = true ↔ r % 2 = 0) ∧ (isBlueRow r = true ↔ r % 2 = 1) ∧
    (∀ p : Pattern,
      (isRed p r c = true ↔ r % 2 = 0 ∧ isGreen p r c = false) ∧
      (isBlue p r c = true ↔ r % 2 = 1 ∧ isGreen p r c = false))

/-- `DimOK` (rule R7), and the constraints on the parameters (rules R7, R62). -/
def Obligations.DimensionsAreLegalInTheirBounds : Prop :=
  (∀ s : State, s.dimsOK = true ↔
    2 ≤ s.dim.h.toNat ∧ 2 ≤ s.dim.w.toNat ∧ s.dim.h.toNat % 2 = 0 ∧ s.dim.w.toNat % 2 = 0 ∧
      s.dim.h.toNat ≤ s.params.maxDim ∧ s.dim.w.toNat ≤ s.params.maxDim ∧
      s.dim.h.toNat * s.dim.w.toNat ≤ s.params.capPixels) ∧
  (∀ p : Params, p.wf = true ↔
    p.base % 64 = 0 ∧ p.maxDim % 2 = 0 ∧ 2 ≤ p.maxDim ∧ p.maxDim ≤ 65534 ∧ 4 ≤ p.capPixels)

/-- Rule R24: `ShapeOK` of a slot; a stage command that passes its checks has it of each of its input slots. -/
def Obligations.ShapeCheckComparesTheTag : Prop :=
  (∀ (s : State) (k : Slot), s.shapeOK k = true ↔
    s.mem.valid k = true ∧ s.mem.height k = s.dim.h.toNat ∧ s.mem.width k = s.dim.w.toNat ∧
      (k = .cls ∨ s.mem.bytes k = s.cfg.sampleBytes)) ∧
  (∀ (s t : State) (i : Instr), isStageCommand i = true → s.engine = .idle → exec i s = .next t →
    t.engine.isBusy = true → ∀ k ∈ checkedSlots i, s.shapeOK k = true) ∧
  (∀ (s : State) (i : Instr) (k : Slot), isStageCommand i = true → s.engine = .idle → s.cfg.swc.toNat < 2 →
    s.dimsOK = true → k ∈ checkedSlots i → s.mem.valid k = true → s.shapeOK k = false →
    (∀ j ∈ checkedSlots i, j ≠ k → s.shapeOK j = true) →
    exec i s = .next (faultedState s (encode i) .shape (BitVec.ofNat 32 k.num.toNat)))

/-! ### The green interpolator -/

/-- Rule R143: the table holds the sums of the included weights, entry by entry as the rule lists them, and the nine
entries that can be indexed are positive. The weights are those of rule R141. -/
def Obligations.RenormTableHoldsWeightSums : Prop :=
  (List.range 5).map weight = [-1, 2, 2, 2, -1] ∧
  [renorm 0 0, renorm 0 1, renorm 0 2, renorm 0 3, renorm 0 4] = [-1, 1, 3, 5, 4] ∧
  [renorm 1 1, renorm 1 2, renorm 1 3, renorm 1 4] = [2, 4, 6, 5] ∧
  [renorm 2 2, renorm 2 3, renorm 2 4] = [2, 4, 3] ∧ [renorm 3 3, renorm 3 4] = [2, 1] ∧ renorm 4 4 = -1 ∧
  ∀ f l : Nat, f ≤ l → l ≤ 4 →
    renorm f l = ((List.range (l + 1 - f)).map fun j => weight (f + j)).sum ∧ (f ≤ 2 → 2 ≤ l → 0 < renorm f l)

/-- Rules R142, R144: the included taps are those in bounds, and the estimate is their weighted sum divided once by the
sum of their weights, clamped; in the interior it is the estimate that rule R141 writes out; with samples in range the
sum lies in `−2·M … 6·M`. -/
def Obligations.EstimateIsTheRenormalisedTapSum : Prop :=
  ∀ (m : Int) (n pos : Nat) (x : Nat → Int), pos < n →
    (∀ k, k < 5 → (firstTap pos ≤ k ∧ k ≤ lastTap n pos ↔ tapIncluded n pos k = true)) ∧
    firstTap pos ≤ 2 ∧ 2 ≤ lastTap n pos ∧
    (firstTap pos = 0 ∧ lastTap n pos = 4 ↔ 2 ≤ pos ∧ pos + 3 ≤ n) ∧
    rawSum n pos x = tapSum n pos x ∧ renorm (firstTap pos) (lastTap n pos) = tapWeights n pos ∧
    0 < tapWeights n pos ∧
    estimate m n pos x = clampM m (tapSum n pos x / tapWeights n pos) ∧
    (2 ≤ pos → pos + 3 ≤ n → estimate m n pos x =
      clampM m ((2 * x (pos - 1) + 2 * x (pos + 1) + 2 * x pos - x (pos - 2) - x (pos + 2)) / 4)) ∧
    ((∀ q, q < n → 0 ≤ x q ∧ x q ≤ m) → -2 * m ≤ rawSum n pos x ∧ rawSum n pos x ≤ 6 * m)

/-- Rules R145, R146: green sites are copied and the others estimated along the direction; and the vertical pass is the
horizontal pass of the transposed mosaic, transposed (a red or blue site stays one under transposition). -/
def Obligations.FirFollowsTheTwoDirections : Prop :=
  (∀ (m : Int) (p : Pattern) (mos : Plane) (r c : Nat), r < mos.h → c < mos.w →
    (isGreen p r c = true → ∀ d, (fir m p d mos).sample r c = mos.sample r c) ∧
    (isGreen p r c = false →
      (fir m p .horizontal mos).sample r c = estimate m mos.w c (fun q => mos.sample r q) ∧
      (fir m p .vertical mos).sample r c = estimate m mos.h r (fun q => mos.sample q c))) ∧
  (∀ (m : Int) (p : Pattern) (mos : Plane),
    fir m p .vertical mos = transposed (fir m p .horizontal (transposed mos)))

/-- The flat-field property: a constant mosaic is reproduced at every site, interior and boundary, and every output
sample of a mosaic in range is in range. -/
def Obligations.FlatFieldIsReproduced : Prop :=
  (∀ (m v : Int) (p : Pattern) (d : Direction) (h w : Nat), 0 ≤ v → v ≤ m →
    fir m p d (flatPlane h w v) = flatPlane h w v) ∧
  (∀ (m : Int) (p : Pattern) (d : Direction) (mos : Plane), 0 ≤ m → SamplesIn mos m → SamplesIn (fir m p d mos) m)

/-! ### The classifier -/

/-- Rules R161, R162, R163: chrominance, gradients and difference, sample by sample, with their ranges; and the
compositions of primitives the rules name for them. -/
def Obligations.ClassifierInputsAreGradientDifferences : Prop :=
  (∀ (m : Int) (mos gV gH : Plane) (r c : Nat), gV.h = mos.h → gV.w = mos.w → gH.h = mos.h → gH.w = mos.w →
    SamplesIn mos m → SamplesIn gV m → SamplesIn gH m → r < mos.h → c < mos.w →
    (chrominance mos gV).sample r c = ((mos.sample r c - gV.sample r c).natAbs : Int) ∧
    SamplesIn (chrominance mos gV) m ∧
    (gradientH (chrominance mos gH)).sample r c =
      (if c + 2 < mos.w then
        (((chrominance mos gH).sample r c - (chrominance mos gH).sample r (c + 2)).natAbs : Int)
      else (chrominance mos gH).sample r c) ∧
    (gradientV (chrominance mos gV)).sample r c =
      (if r + 2 < mos.h then
        (((chrominance mos gV).sample r c - (chrominance mos gV).sample (r + 2) c).natAbs : Int)
      else (chrominance mos gV).sample r c) ∧
    SamplesIn (gradientH (chrominance mos gH)) m ∧ SamplesIn (gradientV (chrominance mos gV)) m ∧
    (gradientDiff mos gV gH).sample r c =
      (gradientH (chrominance mos gH)).sample r c - (gradientV (chrominance mos gV)).sample r c ∧
    -m ≤ (gradientDiff mos gV gH).sample r c ∧ (gradientDiff mos gV gH).sample r c ≤ m) ∧
  (∀ mos g : Plane, g.h = mos.h → g.w = mos.w →
    (subPlanes ⟨0, widen mos⟩ ⟨1, widen g⟩).map absPlane = some (chrominance mos g) ∧
    (shiftedCombine .sub ⟨2, chrominance mos g⟩ ⟨3, chrominance mos g⟩ 0 2).map absPlane =
      some (gradientH (chrominance mos g)) ∧
    (shiftedCombine .sub ⟨2, chrominance mos g⟩ ⟨3, chrominance mos g⟩ 2 0).map absPlane =
      some (gradientV (chrominance mos g))) ∧
  (∀ mos gV gH : Plane, gV.h = mos.h → gV.w = mos.w → gH.h = mos.h → gH.w = mos.w →
    subPlanes ⟨4, gradientH (chrominance mos gH)⟩ ⟨5, gradientV (chrominance mos gV)⟩ =
      some (gradientDiff mos gV gH))

/-- Rule R164: what the accumulator of rules R166 to R169 computes is, for every buffer of every shape, the windowed sum
over the in-bounds part of the 5×5 neighbourhood, at most 25 terms. -/
def Obligations.SlidingAccumulatorIsTheWindowedSum : Prop :=
  (∀ d : Plane, slidingWindow d = windowSum d ∧
    ∀ r c, r < d.h → c < d.w → (slidingWindow d).sample r c = neighbourhoodSum d r c) ∧
  (∀ (d : Plane) (m : Int), 0 ≤ m →
    (∀ r c, r < d.h → c < d.w → -m ≤ d.sample r c ∧ d.sample r c ≤ m) →
    ∀ r c, r < d.h → c < d.w →
      -(25 * m) ≤ (slidingWindow d).sample r c ∧ (slidingWindow d).sample r c ≤ 25 * m)

/-- Rule R170: the fused schedule and the unfused schedule of rules R166 to R169 both compute the sum of rule R164. -/
def Obligations.FusedScheduleAgrees : Prop :=
  ∀ d : Plane, fusedWindow d = slidingWindow d ∧ fusedWindow d = windowSum d

/-- For a grey mosaic that depends on the column only the classifier is nowhere negative, and for one that depends on
the row only it is nowhere positive. -/
def Obligations.EdgeMosaicsGiveTheClassifierItsSign : Prop :=
  ∀ (m : Int) (p : Pattern) (h w : Nat) (f : Nat → Int), (∀ n, 0 ≤ f n ∧ f n ≤ m) →
    ∀ r c, r < h → c < w →
      0 ≤ (pipelineClassifier m p (Plane.tabulate h w fun _ cc => f cc)).sample r c ∧
      (pipelineClassifier m p (Plane.tabulate h w fun rr _ => f rr)).sample r c ≤ 0

/-! ### The reconstruction -/

/-- Rules R201 to R206: every sample of the red and the blue plane. The red-minus-blue chrominance is the difference of
the two planes at the neighbouring green sites. -/
def Obligations.ReconstructionFollowsTheTwoPhases : Prop :=
  ∀ (m : Int) (p : Pattern) (mos g cls : Plane) (r c : Nat), g.h = mos.h → g.w = mos.w →
    r < mos.h → c < mos.w →
    (isRed p r c = true →
      (redPlane m p mos g cls).sample r c = mos.sample r c ∧
      (bluePlane m p mos g cls).sample r c = clampM m (mos.sample r c - tdiv2 (
        if cls.sample r c < 0 then rowNeighbours (redPlane m p mos g cls) (bluePlane m p mos g cls) r c
        else columnNeighbours (redPlane m p mos g cls) (bluePlane m p mos g cls) r c))) ∧
    (isBlue p r c = true →
      (bluePlane m p mos g cls).sample r c = mos.sample r c ∧
      (redPlane m p mos g cls).sample r c = clampM m (mos.sample r c + tdiv2 (
        if cls.sample r c < 0 then rowNeighbours (redPlane m p mos g cls) (bluePlane m p mos g cls) r c
        else columnNeighbours (redPlane m p mos g cls) (bluePlane m p mos g cls) r c))) ∧
    (isGreen p r c = true → r % 2 = 0 →
      (redPlane m p mos g cls).sample r c = clampM m (g.sample r c + tdiv2 (rowNeighbours mos g r c)) ∧
      (bluePlane m p mos g cls).sample r c = clampM m (g.sample r c + tdiv2 (columnNeighbours mos g r c))) ∧
    (isGreen p r c = true → r % 2 = 1 →
      (redPlane m p mos g cls).sample r c = clampM m (g.sample r c + tdiv2 (columnNeighbours mos g r c)) ∧
      (bluePlane m p mos g cls).sample r c = clampM m (g.sample r c + tdiv2 (rowNeighbours mos g r c)))

/-- Every sample of the reconstruction is in range, whatever green plane and classifier map the host has loaded. -/
def Obligations.ReconstructionStaysInRange : Prop :=
  ∀ (m : Int) (p : Pattern) (mos g cls : Plane), 0 ≤ m → SamplesIn mos m →
    SamplesIn (redPlane m p mos g cls) m ∧ SamplesIn (bluePlane m p mos g cls) m

/-- A flat mosaic goes through the whole pipeline unchanged, everywhere, with a classifier map of zeros. -/
def Obligations.FlatMosaicIsReproducedByThePipeline : Prop :=
  ∀ (m v : Int) (p : Pattern) (h w : Nat), 0 ≤ v → v ≤ m →
    pipelineClassifier m p (flatPlane h w v) = flatPlane h w 0 ∧
    pipelineGreen m p (flatPlane h w v) = flatPlane h w v ∧
    pipelineRed m p (flatPlane h w v) = flatPlane h w v ∧
    pipelineBlue m p (flatPlane h w v) = flatPlane h w v

/-- A constant colour patch comes out of the whole pipeline exact: the green plane at distance 2 from every border, the
red and blue planes at distance 4. -/
def Obligations.ConstantPatchIsExactInside : Prop :=
  ∀ (m a g b : Int) (p : Pattern) (h w r c : Nat), 0 ≤ a → a ≤ m → 0 ≤ g → g ≤ m → 0 ≤ b → b ≤ m →
    (Inside h w 2 r c → (pipelineGreen m p (patchMosaic p h w a g b)).sample r c = g) ∧
    (Inside h w 4 r c →
      (pipelineRed m p (patchMosaic p h w a g b)).sample r c = a ∧
      (pipelineBlue m p (patchMosaic p h w a g b)).sample r c = b)

/-! ### Commands -/

/-- A step runs the decoded command: a word presented to an engine that is not busy, and the command in progress in each
of the ways the engine's turn comes. The schedule that says whose turn it is, is the model's choice (log entry 1), and
so is that a write to an unmapped offset is held like that of a register (log entry 4). -/
def Obligations.StepRunsTheDecodedCommand : Prop :=
  (∀ (s : State) (x : Word) (i : Instr) (rest : List HostEvent), WritesNext s 0x0C x rest →
    s.engine.isBusy = false → decode x = .ok i → step s = exec i { s with inputs := rest }) ∧
  (∀ (s : State) (i : Instr), s.engine.isBusy = true → decode s.curCmd = .ok i →
    (s.inputs = [] → step s = exec i s) ∧
    (∀ rest, s.inputs = .engineTurn :: rest → step s = exec i { s with inputs := rest }) ∧
    (∀ off d rest, IsOffset off → WritesNext s off d rest → step s = exec i s) ∧
    (∀ rest, ReadsNext s 0x20 rest → step s = exec i s))

/-- The state `withFetchWord` builds runs exactly the word's command in its very next step (log entry 6). -/
def Obligations.FetchedWordRunsNext : Prop :=
  ∀ (s : State) (nbits w : Nat) (i : Instr), nbits ≤ 32 → decodeTableWord nbits w = some i →
    step (s.withFetchWord nbits w) = exec i { s with engine := .idle }

/-- Rules R271, R272: of all checks of a command the first that fails in the fixed order is reported, with its
information, and changes nothing else; a command whose checks pass starts. -/
def Obligations.FirstFailingCheckIsReported : Prop :=
  ∀ i : Instr, AcceptsByItsChecks i

/-- Rule R97: every word that is not legal by rule R96, written to `CMD` in `IDLE`, raises `ILLCMD` with the word as
information and changes no slot. -/
def Obligations.IllegalWordsRaiseIllcmd : Prop :=
  ∀ (s : State) (x : Word) (rest : List HostEvent), legalWord x = false → s.engine = .idle →
    WritesNext s 0x0C x rest →
    step s = .next (faultedState { s with inputs := rest } x .illCmd x)

/-- Rule R261: every word with `OP = 0x14` is a word of `REFINE`, which raises `ILLCMD` when accepted. -/
def Obligations.RefineRaisesIllcmd : Prop :=
  (∀ x : Word, opField x = 0x14 ↔ ∃ payload, decode x = .ok (.refine payload)) ∧
  (∀ (s : State) (payload : BitVec 24), s.engine = .idle →
    exec (.refine payload) s =
      .next (faultedState s (encode (.refine payload)) .illCmd (encode (.refine payload))))

/-- Rule R147: the three forms of `IGD` make their checks, and complete with the filtered mosaic in the slots `DIR` names. -/
def Obligations.IgdCompletes : Prop :=
  encode .igdH = 0x10000001 ∧ encode .igdV = 0x10000002 ∧ encode .igdVH = 0x10000003 ∧
  AcceptsByItsChecks .igdH ∧ AcceptsByItsChecks .igdV ∧ AcceptsByItsChecks .igdVH ∧
  (∀ s : State, StageReady s [.mosaic] →
    CompletesWith s .igdH .interpolate
      { s.mem with
        greenH := some ⟨s.cfg.sampleBytes, fir s.cfg.maxSample s.cfg.pattern .horizontal (s.mem.plane .mosaic)⟩ } ∧
    CompletesWith s .igdV .interpolate
      { s.mem with
        greenV := some ⟨s.cfg.sampleBytes, fir s.cfg.maxSample s.cfg.pattern .vertical (s.mem.plane .mosaic)⟩ } ∧
    CompletesWith s .igdVH .interpolate
      { s.mem with
        greenV := some ⟨s.cfg.sampleBytes, fir s.cfg.maxSample s.cfg.pattern .vertical (s.mem.plane .mosaic)⟩
        greenH := some ⟨s.cfg.sampleBytes, fir s.cfg.maxSample s.cfg.pattern .horizontal (s.mem.plane .mosaic)⟩ })

/-- Rule R171: `CCD` makes its checks, and completes with the windowed sum of the gradient difference in slot 3. -/
def Obligations.CcdCompletesWithTheWindowedSum : Prop :=
  encode .ccd = 0x11000000 ∧ AcceptsByItsChecks .ccd ∧
  (∀ s : State, StageReady s [.mosaic, .greenV, .greenH] →
    CompletesWith s .ccd .classify
      { s.mem with
        cls := some ⟨.four,
          windowSum (gradientDiff (s.mem.plane .mosaic) (s.mem.plane .greenV) (s.mem.plane .greenH))⟩ })

/-- Rules R190, R191: `MRG` makes its checks, and completes with the sample-by-sample selection in slot 4; zero selects vertical. -/
def Obligations.MrgCompletesWithTheSelection : Prop :=
  encode .mrg = 0x12000000 ∧ AcceptsByItsChecks .mrg ∧
  (∀ k : Int, (preferH k = true ↔ k < 0) ∧ (preferV k = true ↔ 0 ≤ k)) ∧
  (∀ s : State, StageReady s [.greenV, .greenH, .cls] →
    CompletesWith s .mrg .merge
      { s.mem with
        green := some ⟨s.cfg.sampleBytes,
          Plane.tabulate s.dim.h.toNat s.dim.w.toNat fun r c =>
            if (s.mem.plane .cls).sample r c < 0 then (s.mem.plane .greenH).sample r c
            else (s.mem.plane .greenV).sample r c⟩ })

/-- Rule R207: `RRB` makes its checks, and completes with the reconstruction in slots 5 and 6. -/
def Obligations.RrbCompletes : Prop :=
  encode .rrb = 0x13000000 ∧ AcceptsByItsChecks .rrb ∧
  (∀ s : State, StageReady s [.mosaic, .cls, .green] →
    CompletesWith s .rrb .reconstruct
      { s.mem with
        red := some ⟨s.cfg.sampleBytes,
          redPlane s.cfg.maxSample s.cfg.pattern (s.mem.plane .mosaic) (s.mem.plane .green) (s.mem.plane .cls)⟩
        blue := some ⟨s.cfg.sampleBytes,
          bluePlane s.cfg.maxSample s.cfg.pattern (s.mem.plane .mosaic) (s.mem.plane .green) (s.mem.plane .cls)⟩ })

/-- Rules R231, R239: `DEMOSAIC` makes its checks, and completes after its acceptance and four engine steps, which
`STATUS.STAGE` names in turn, with the pipeline's planes in slots 1 to 6. It leaves what the sequence `IGD.VH`, `CCD`,
`MRG`, `RRB` leaves, `CUR_CMD` apart; each command of the sequence passes its own checks. -/
def Obligations.DemosaicCompletesAsTheCommandSequence : Prop :=
  encode .demosaic = 0x1F000000 ∧ AcceptsByItsChecks .demosaic ∧
  (∀ s : State, StageReady s [.mosaic] →
    exec .demosaic s = .next (acceptedState s .demosaic .interpolate) ∧
    (∃ t, execTimes .demosaic 2 s = .next t ∧ t.engine = .busy .classify) ∧
    (∃ t, execTimes .demosaic 3 s = .next t ∧ t.engine = .busy .merge) ∧
    (∃ t, execTimes .demosaic 4 s = .next t ∧ t.engine = .busy .reconstruct) ∧
    execTimes .demosaic 5 s = .next (completedState s .demosaic
      { mosaic := s.mem.mosaic
        greenV := some ⟨s.cfg.sampleBytes, fir s.cfg.maxSample s.cfg.pattern .vertical (s.mem.plane .mosaic)⟩
        greenH := some ⟨s.cfg.sampleBytes, fir s.cfg.maxSample s.cfg.pattern .horizontal (s.mem.plane .mosaic)⟩
        cls := some ⟨.four, pipelineClassifier s.cfg.maxSample s.cfg.pattern (s.mem.plane .mosaic)⟩
        green := some ⟨s.cfg.sampleBytes, pipelineGreen s.cfg.maxSample s.cfg.pattern (s.mem.plane .mosaic)⟩
        red := some ⟨s.cfg.sampleBytes, pipelineRed s.cfg.maxSample s.cfg.pattern (s.mem.plane .mosaic)⟩
        blue := some ⟨s.cfg.sampleBytes, pipelineBlue s.cfg.maxSample s.cfg.pattern (s.mem.plane .mosaic)⟩ }) ∧
    ∃ a b c d, execTimes .igdVH 2 s = .next a ∧ execTimes .ccd 2 a = .next b ∧ execTimes .mrg 2 b = .next c ∧
      execTimes .rrb 2 c = .next d ∧
      execTimes .demosaic 5 s = .next { d with curCmd := encode .demosaic })

/-- Rules R235, R238: `BALLOC` and `BFREE` make their checks, and complete with a slot of zeros of the shape `DIM` and
with an empty slot. -/
def Obligations.AllocAndFreeComplete : Prop :=
  (∀ d : Slot, encode (.balloc d) = BitVec.ofNat 32 (0x20000000 + d.num.toNat * 2 ^ 20) ∧
    encode (.bfree d) = BitVec.ofNat 32 (0x23000000 + d.num.toNat * 2 ^ 20)) ∧
  (∀ d, AcceptsByItsChecks (.balloc d)) ∧ (∀ d, AcceptsByItsChecks (.bfree d)) ∧
  (∀ (s : State) (d : Slot), s.engine = .idle → (d.isWide = false → s.cfg.swc.toNat < 2) → s.dimsOK = true →
    CompletesWith s (.balloc d) .bufferOp
      (s.mem.setSlot d (some ⟨if d.isWide then .four else s.cfg.sampleBytes,
        Plane.tabulate s.dim.h.toNat s.dim.w.toNat fun _ _ => 0⟩))) ∧
  (∀ (s : State) (d : Slot), s.engine = .idle →
    CompletesWith s (.bfree d) .bufferOp (s.mem.setSlot d none))

/-- Rule R236: `BCOPY` makes its checks, and completes in each of its four cases. -/
def Obligations.BcopyCompletes : Prop :=
  (∀ d src : Slot,
    encode (.bcopy d src) = BitVec.ofNat 32 (0x21000000 + d.num.toNat * 2 ^ 20 + src.num.toNat * 2 ^ 16)) ∧
  (∀ d src, AcceptsByItsChecks (.bcopy d src)) ∧
  (∀ (s : State) (d src : Slot) (ras : Raster), s.engine = .idle → s.mem.slot src = some ras →
    (src.isWide = true → d.isWide = false → s.cfg.swc.toNat < 2) →
    (d = src → CompletesWith s (.bcopy d src) .bufferOp s.mem) ∧
    (d ≠ src → d.isWide = false → src.isWide = false →
      CompletesWith s (.bcopy d src) .bufferOp (s.mem.setSlot d (some ras))) ∧
    (d ≠ src → d.isWide = true →
      CompletesWith s (.bcopy d src) .bufferOp (s.mem.setSlot d (some ⟨.four, widen ras.plane⟩))) ∧
    (d.isWide = false → src.isWide = true →
      CompletesWith s (.bcopy d src) .bufferOp
        (s.mem.setSlot d (some ⟨s.cfg.sampleBytes, narrowSat s.cfg.maxSample ras.plane⟩))))

/-- Rule R237: `BMOVE` makes its checks; within a kind it moves the content and empties the source, or keeps the slot
for `d = s`; across kinds it raises `ILLCMD`. -/
def Obligations.BmoveCompletes : Prop :=
  (∀ d src : Slot,
    encode (.bmove d src) = BitVec.ofNat 32 (0x22000000 + d.num.toNat * 2 ^ 20 + src.num.toNat * 2 ^ 16)) ∧
  (∀ d src, AcceptsByItsChecks (.bmove d src)) ∧
  (∀ (s : State) (d src : Slot), s.engine = .idle →
    (∀ ras, s.mem.slot src = some ras → d.isWide = src.isWide →
      (d = src → CompletesWith s (.bmove d src) .bufferOp s.mem) ∧
      (d ≠ src →
        CompletesWith s (.bmove d src) .bufferOp ((s.mem.setSlot d (some ras)).setSlot src none))) ∧
    (d.isWide ≠ src.isWide →
      exec (.bmove d src) s = .next (faultedState s (encode (.bmove d src)) .illCmd (encode (.bmove d src)))))

/-- The frame of every command, in every engine state: a next state of `exec` differs from the state before in nothing
but `CUR_CMD`, `DONE`, the engine state and the slots the command writes (rule R232, the column `writes` of rule
R234). -/
def Obligations.CommandsChangeOnlyTheirSlotsAndFlags : Prop :=
  ∀ (i : Instr) (s t : State), exec i s = .next t →
    t = { s with mem := t.mem, engine := t.engine, done := t.done, curCmd := t.curCmd } ∧
    ∀ k, k ∉ writtenSlots i → t.mem.slot k = s.mem.slot k

/-- The outputs of a stage command are a function of its input slots, `CFG.PATTERN`, `CFG.SWC` and `DIM` alone (rule
R48): two busy engines that agree on these write the same slots. -/
def Obligations.StageOutputsDependOnInputsAlone : Prop :=
  ∀ (i : Instr) (s1 s2 : State), isStageCommand i = true →
    s1.engine = .busy (firstStage i) → s2.engine = .busy (firstStage i) → AgreeOn (checkedSlots i) s1 s2 →
    ∃ t1 t2, execTimes i (if i = .demosaic then 4 else 1) s1 = .next t1 ∧
      execTimes i (if i = .demosaic then 4 else 1) s2 = .next t2 ∧
      ∀ k ∈ writtenSlots i, t1.mem.slot k = t2.mem.slot k

/-- The capability flags of `CFG` change no slot that any command writes (rule R10). -/
def Obligations.CapabilityFlagsChangeNoSlot : Prop :=
  ∀ (i : Instr) (s t : State) (par vec : Bool), exec i s = .next t →
    ∃ u, exec i (withCapabilities s par vec) = .next u ∧ u.mem = t.mem

/-! ### Registers and the buffer port -/

/-- Rule R68: while busy, a write of any register and a read of `BUF_DATA` are held: the engine steps and the access
stays the next one, performed in the new state once the engine is not busy; a read of any other register completes at
once; the `reset` input is never held. That the step at a held access is the engine's is the model's schedule (log entry
1), and that reset keeps the model's own fields is its choice (log entry 13). -/
def Obligations.AccessesAreHeldWhileBusy : Prop :=
  ∀ (s : State) (rest : List HostEvent), s.engine.isBusy = true →
    (∀ off d, IsRegister off → WritesNext s off d rest →
      step s = engineStep s ∧ ∀ t, step s = .next t → t.inputs = s.inputs ∧ t.readData = s.readData ∧
        (t.engine.isBusy = false → step t = writeRegister off d { t with inputs := rest })) ∧
    (ReadsNext s 0x20 rest →
      step s = engineStep s ∧ ∀ t, step s = .next t → t.inputs = s.inputs ∧ t.readData = s.readData ∧
        (t.engine.isBusy = false → step t = .next (readRegister 0x20 { t with inputs := rest }))) ∧
    (∀ off, IsRegister off → off ≠ 0x20 → ReadsNext s off rest →
      step s = .next { s with inputs := rest, readData := some (readWord off s) }) ∧
    (s.inputs = .hardReset :: rest →
      step s = .next { State.resetWith s.params with inputs := rest, readData := s.readData })

/-- What the registers read (rules R31, R34 to R36, R41 to R43, R62), with the code of every stage (rule R36) and of every
cause (rule R270), and that no read but that of `BUF_DATA` has a side effect (rule R69). That a read of an unmapped
offset completes at once in a busy engine too is the model's choice (log entry 4). -/
def Obligations.ReadsReturnTheRegisters : Prop :=
  (∀ (s : State) (off : Nat) (rest : List HostEvent), IsOffset off → off ≠ 0x20 → ReadsNext s off rest →
    step s = .next { s with inputs := rest, readData := some (readWord off s) }) ∧
  (∀ s : State,
    readWord 0x00 s = 0x4D440007 ∧ readWord 0x0C s = 0 ∧ readWord 0x2C s = s.curCmd ∧
    (∀ off, 0x30 ≤ off → readWord off s = 0) ∧
    (readWord 0x24 s).getLsbD 0 = s.mem.valid .mosaic ∧ (readWord 0x24 s).getLsbD 1 = s.mem.valid .greenV ∧
    (readWord 0x24 s).getLsbD 2 = s.mem.valid .greenH ∧ (readWord 0x24 s).getLsbD 3 = s.mem.valid .cls ∧
    (readWord 0x24 s).getLsbD 4 = s.mem.valid .green ∧ (readWord 0x24 s).getLsbD 5 = s.mem.valid .red ∧
    (readWord 0x24 s).getLsbD 6 = s.mem.valid .blue ∧
    (∀ n, 7 ≤ n → (readWord 0x24 s).getLsbD n = false) ∧
    (∀ cause info, s.engine = .faulted cause info → readWord 0x28 s = info) ∧
    (s.engine.isFaulted = false → readWord 0x28 s = 0) ∧
    (readWord 0x10 s).getLsbD 0 = s.engine.isBusy ∧ (readWord 0x10 s).getLsbD 1 = s.done ∧
    (readWord 0x10 s).getLsbD 2 = s.engine.isFaulted ∧ (readWord 0x10 s).getLsbD 3 = s.oob ∧
    (readWord 0x10 s).extractLsb' 4 4 =
      (match s.engine with
      | .busy .interpolate => 1
      | .busy .classify => 2
      | .busy .merge => 3
      | .busy .reconstruct => 4
      | .busy .bufferOp => 5
      | .idle | .faulted _ _ => 0) ∧
    (readWord 0x10 s).extractLsb' 8 8 =
      (match s.engine with
      | .faulted .illCmd _ => 1
      | .faulted .cfgErr _ => 2
      | .faulted .dimErr _ => 3
      | .faulted .noBuf _ => 4
      | .faulted .shape _ => 5
      | .idle | .busy _ => 0) ∧
    (readWord 0x10 s).extractLsb' 16 16 = 0)

/-- The fields of `CFG`, `DIM`, `CTRL`, `BUF_SEL` and `BUF_POS` are the bits the rules name; what is written reads back
with the reserved bits 0 and changes nothing else; a refused width code faults the commands that need the width, and a
slot of another width fails the shape check; `SRST` resets; the port's position advances at every `BUF_DATA` access; and
the map of the registers with their reset values and their access (rules R30, R32, R33, R37 to R39). -/
def Obligations.WrittenRegistersReadBack : Prop :=
  (∀ (s : State) (d : Word) (rest : List HostEvent), s.engine.isBusy = false →
    (WritesNext s 0x04 d rest →
      ∃ t, step s = .next t ∧ readWord 0x04 t = d &&& 0x37 ∧ t = { s with inputs := rest, cfg := t.cfg } ∧
        t.cfg.pattern = (if d.getLsbD 0 then .grbg else .rggb) ∧ t.cfg.swc = d.extractLsb' 1 2 ∧
        t.cfg.parEn = d.getLsbD 4 ∧ t.cfg.vecEn = d.getLsbD 5) ∧
    (WritesNext s 0x08 d rest →
      ∃ t, step s = .next t ∧ readWord 0x08 t = d ∧ t = { s with inputs := rest, dim := t.dim } ∧
        t.dim.w = d.extractLsb' 0 16 ∧ t.dim.h = d.extractLsb' 16 16) ∧
    (WritesNext s 0x14 d rest → d.getLsbD 31 = false →
      ∃ t, step s = .next t ∧ readWord 0x14 t = d &&& 0x3 ∧ t = { s with inputs := rest, ctrl := t.ctrl } ∧
        t.ctrl.ieDone = d.getLsbD 0 ∧ t.ctrl.ieFault = d.getLsbD 1) ∧
    (WritesNext s 0x14 d rest → d.getLsbD 31 = true → ∃ t, step s = .next t ∧ AtReset t) ∧
    (WritesNext s 0x18 d rest →
      ∃ t, step s = .next t ∧ readWord 0x18 t = d &&& 0xF ∧ t = { s with inputs := rest, bufSel := t.bufSel } ∧
        t.bufSel = d.extractLsb' 0 4 ∧ (7 ≤ t.bufSel.toNat → ¬∃ k ras, PortInBounds t k ras)) ∧
    (WritesNext s 0x1C d rest →
      ∃ t, step s = .next t ∧ readWord 0x1C t = d ∧ t = { s with inputs := rest, bufPos := t.bufPos } ∧
        t.bufPos.col = d.extractLsb' 0 16 ∧ t.bufPos.row = d.extractLsb' 16 16) ∧
    (WritesNext s 0x20 d rest ∨ ReadsNext s 0x20 rest → ∃ t, step s = .next t ∧ t.bufPos = s.advancePos) ∧
    (WritesNext s 0x10 d rest →
      step s = .next { s with
        inputs := rest
        done := if d.getLsbD 1 then false else s.done
        oob := if d.getLsbD 3 then false else s.oob }) ∧
    (∀ off ∈ [0x00, 0x24, 0x28, 0x2C], WritesNext s off d rest → step s = .next { s with inputs := rest })) ∧
  (∀ s : State, readWord 0x0C s = 0 ∧ (readWord 0x14 s).getLsbD 31 = false) ∧
  (∀ cfg : Cfg,
    (cfg.swc = 0 → cfg.sampleBytes = .one ∧ cfg.maxSample = 255) ∧
    (cfg.swc = 1 → cfg.sampleBytes = .two ∧ cfg.maxSample = 65535)) ∧
  (∀ (s : State) (i : Instr), needsWidth i = true → s.engine = .idle → 2 ≤ s.cfg.swc.toNat →
    exec i s = .next (faultedState s (encode i) .cfgErr s.cfg.word)) ∧
  (∀ (s : State) (k : Slot), k ≠ .cls → s.mem.bytes k ≠ s.cfg.sampleBytes → s.shapeOK k = false) ∧
  (∀ p : Params, AtReset (State.resetWith p))

/-- A write to `STATUS` clears `DONE` by bit 1 and `OOB` by bit 3 and does nothing else (rule R35); writes to the
read-only registers and to unmapped offsets are ignored (rules R31, R41 to R43). -/
def Obligations.StatusIsWriteOneToClearAndReadOnlyWritesAreIgnored : Prop :=
  ∀ (s : State) (d : Word) (rest : List HostEvent), s.engine.isBusy = false →
    (WritesNext s 0x10 d rest →
      step s = .next { s with
        inputs := rest
        done := if d.getLsbD 1 then false else s.done
        oob := if d.getLsbD 3 then false else s.oob }) ∧
    (∀ off ∈ [0x00, 0x24, 0x28, 0x2C, 0x30, 0x34, 0x38, 0x3C], WritesNext s off d rest →
      step s = .next { s with inputs := rest })

/-- Rule R61: an access to the window that is no aligned 32-bit word is refused, by name. -/
def Obligations.OnlyAlignedWordAccessesHaveAMeaning : Prop :=
  ∀ (s : State) (width : AccessWidth) (addr : Nat) (d : Word) (rest : List HostEvent),
    s.inputs = .read width addr :: rest ∨ s.inputs = .write width addr d :: rest →
    s.params.base ≤ addr → addr < s.params.base + 64 → width ≠ .word ∨ (addr - s.params.base) % 4 ≠ 0 →
    step s = .refused .notAnAlignedWord

/-- Rule R63: a read of `BUF_DATA` returns the sample, zero-extended from a sample slot and two's complement from slot
3, or 0 with `OOB` set; no slot changes, and `BUF_POS` advances by rule R65. -/
def Obligations.PortReadReturnsTheSample : Prop :=
  ∀ (s : State) (rest : List HostEvent), s.engine.isBusy = false → ReadsNext s 0x20 rest →
    (∀ k ras, s.mem.wf s.params = true → PortInBounds s k ras →
      ∃ v : Word,
        step s = .next { s with inputs := rest, readData := some v, bufPos := s.advancePos } ∧
        (k.isWide = false → (v.toNat : Int) = ras.plane.sample s.bufPos.row.toNat s.bufPos.col.toNat) ∧
        (k.isWide = true →
          (v.toNat : Int) = ras.plane.sample s.bufPos.row.toNat s.bufPos.col.toNat % 2 ^ 32)) ∧
    ((¬∃ k ras, PortInBounds s k ras) →
      step s = .next { s with inputs := rest, readData := some 0, oob := true, bufPos := s.advancePos })

/-- Rule R64: a write to `BUF_DATA` sets the one sample, saturating into a sample slot and two's complement into slot 3,
and leaves every other sample and every shape tag; out of bounds it sets `OOB` only. -/
def Obligations.PortWriteSetsTheSample : Prop :=
  ∀ (s : State) (d : Word) (rest : List HostEvent), s.engine.isBusy = false → WritesNext s 0x20 d rest →
    (∀ k ras, s.mem.wf s.params = true → PortInBounds s k ras →
      ∃ b : Plane,
        step s = .next { s with
          inputs := rest, bufPos := s.advancePos, mem := s.mem.setSlot k (some ⟨ras.sw, b⟩) } ∧
        b.h = ras.plane.h ∧ b.w = ras.plane.w ∧
        b.sample s.bufPos.row.toNat s.bufPos.col.toNat =
          (if k.isWide then d.toInt else min (d.toNat : Int) (2 ^ (8 * ras.sw.count) - 1)) ∧
        ∀ r c, ¬(r = s.bufPos.row.toNat ∧ c = s.bufPos.col.toNat) → b.sample r c = ras.plane.sample r c) ∧
    ((¬∃ k ras, PortInBounds s k ras) →
      step s = .next { s with inputs := rest, oob := true, bufPos := s.advancePos })

/-- Rule R65: the post-increment of `BUF_POS`, and that reads from position 0 deliver a slot's samples in row-major
order, ending at row `h`. -/
def Obligations.PortTraversesRowMajor : Prop :=
  (∀ (s : State) (k : Slot) (ras : Raster), Slot.ofNum s.bufSel = some k → s.mem.slot k = some ras →
    (s.bufPos.col.toNat + 1 < ras.plane.w →
      s.advancePos = { row := s.bufPos.row, col := s.bufPos.col + 1 }) ∧
    (ras.plane.w ≤ s.bufPos.col.toNat + 1 →
      s.advancePos = { row := BitVec.ofNat 16 ((s.bufPos.row.toNat + 1) % 2 ^ 16), col := 0 })) ∧
  (∀ s : State, (¬∃ k ras, Slot.ofNum s.bufSel = some k ∧ s.mem.slot k = some ras) →
    s.advancePos = s.bufPos) ∧
  (∀ (s : State) (k : Slot) (ras : Raster) (n : Nat), Slot.ofNum s.bufSel = some k → s.mem.slot k = some ras →
    ras.plane.h < 2 ^ 16 → ras.plane.w < 2 ^ 16 → 0 < ras.plane.w → n ≤ ras.plane.h * ras.plane.w →
    s.bufPos = { row := 0, col := 0 } →
    portReads n s =
      ((List.range n).map fun j => BitVec.ofInt 32 (ras.plane.sample (j / ras.plane.w) (j % ras.plane.w)),
        { s with bufPos :=
            { row := BitVec.ofNat 16 (n / ras.plane.w), col := BitVec.ofNat 16 (n % ras.plane.w) } }))

/-! ### Reset, faults and the whole machine -/

/-- Rule R50: the values after reset, for every value of the parameters. -/
def Obligations.ResetStateIsIdleAndEmpty : Prop :=
  ∀ p : Params, AtReset (State.resetWith p)

/-- Rule R300: the `reset` input, in any state, a busy engine included, puts every piece of the block's state to its reset
value in one step. -/
def Obligations.HardResetRestoresTheBlock : Prop :=
  ∀ (s : State) (rest : List HostEvent), s.inputs = .hardReset :: rest → ∃ t, step s = .next t ∧ AtReset t

/-- Rules R300, R301: hard reset in any state, and soft reset when it is not held, put every piece of the block's state
to its reset value; `SRST` reads 0. That the model's own fields (the parameters, the accesses to come, the last word
read) stay is the model's choice (log entry 13), and that a held soft reset gives the engine its step is its schedule
(log entry 1). -/
def Obligations.ResetRestoresEveryValue : Prop :=
  (∀ s : State, (readWord 0x14 s).getLsbD 31 = false) ∧
  (∀ (s : State) (rest : List HostEvent),
    (s.inputs = .hardReset :: rest →
      step s = .next { State.resetWith s.params with inputs := rest, readData := s.readData }) ∧
    (∀ d : Word, WritesNext s 0x14 d rest → d.getLsbD 31 = true →
      (s.engine.isBusy = false →
        step s = .next { State.resetWith s.params with inputs := rest, readData := s.readData }) ∧
      (s.engine.isBusy = true → step s = engineStep s)))

/-- Rule R277: the interrupt line; its two sources are never pending together in a state of the block; `DONE` is pending
until the host clears it by a `STATUS` write or the next accepted command, `FAULT` until reset. -/
def Obligations.InterruptLineFollowsItsFourBits : Prop :=
  (∀ s : State, s.irq = true ↔
    (s.done = true ∧ s.ctrl.ieDone = true) ∨ (s.engine.isFaulted = true ∧ s.ctrl.ieFault = true)) ∧
  (∀ s : State, s.Inv → ¬(s.done = true ∧ s.engine.isFaulted = true)) ∧
  (∀ s t : State, s.Inv → step s = .next t →
    (s.done = true → t.done = false →
      (∃ d rest, WritesNext s 0x10 d rest ∧ d.getLsbD 1 = true) ∨
        (s.engine = .idle ∧ ∃ x rest, WritesNext s 0x0C x rest) ∨ ResetNext s) ∧
    (s.engine.isFaulted = true → t.engine.isFaulted = false → ResetNext s))

/-- Rule R273: the faulted state ignores commands and keeps its record through every step but a reset. -/
def Obligations.FaultedIsLeftOnlyByReset : Prop :=
  ∀ (s : State) (cause : FaultCause) (info : Word), s.engine = .faulted cause info →
    (∀ x rest, WritesNext s 0x0C x rest → step s = .next { s with inputs := rest }) ∧
    (∀ t, step s = .next t → ¬ResetNext s → t.engine = .faulted cause info ∧ t.curCmd = s.curCmd) ∧
    (∀ t, step s = .next t → ResetNext s → t.engine = .idle ∧ ∀ k, t.mem.slot k = none)

/-- Rule R44: the transitions of the engine state. From `IDLE` only a `CMD` write leads on; a busy engine goes to the next
stage of `DEMOSAIC` or to `IDLE`, and never to `FAULTED`. -/
def Obligations.EngineTransitions : Prop :=
  ∀ s t : State, step s = .next t →
    (s.engine = .idle → t.engine ≠ .idle → ∃ x rest, WritesNext s 0x0C x rest) ∧
    (∀ st, s.engine = .busy st → t.engine.isFaulted = false) ∧
    (∀ st st', s.engine = .busy st → t.engine = .busy st' →
      st' = st ∨ (decode s.curCmd = .ok .demosaic ∧ followingStage st = some st')) ∧
    (∀ st, s.engine = .busy st → t.engine = .idle → t.done = true ∨ ResetNext s) ∧
    (s.engine.isFaulted = true → t.engine.isBusy = false ∧ (t.engine = .idle → ResetNext s))

/-- Rule R26: a slot keeps its content until a command in progress that writes it, the host through the port, or reset
changes it. -/
def Obligations.SlotsKeepTheirContent : Prop :=
  ∀ (s t : State) (k : Slot), step s = .next t → t.mem.slot k ≠ s.mem.slot k →
    (s.engine.isBusy = true ∧ ∃ i, decode s.curCmd = .ok i ∧ k ∈ writtenSlots i) ∨
    (s.engine.isBusy = false ∧ Slot.ofNum s.bufSel = some k ∧ ∃ d rest, WritesNext s 0x20 d rest) ∨
    ResetNext s

/-- The invariant of the block holds after reset. -/
def Obligations.InvariantHoldsAtReset : Prop :=
  State.reset.Inv ∧ ∀ p : Params, p.wf = true → (State.resetWith p).Inv

/-- The invariant of the block is kept by every step: legal shapes, tags and samples of every slot in the range of its
kind, `DONE` only in `IDLE`, and a busy engine whose stage has its inputs. -/
def Obligations.EveryStepKeepsTheInvariant : Prop :=
  ∀ s t : State, s.Inv → step s = .next t → t.Inv

/-- From a state of the block a step goes on, or refuses an access the interface does not have; the engine step of a busy
engine never fails (rule R233). -/
def Obligations.StepsFromTheInvariantAreSafe : Prop :=
  ∀ s : State, s.Inv →
    safeOutcome (step s) = true ∧ (s.engine.isBusy = true → ∃ t, engineStep s = .next t)

/-- Every command in progress finishes: with no host access in between, within four engine steps (rules R231, R312).
That the engine has its turn when no access is left is the model's schedule (log entry 1). -/
def Obligations.EveryCommandFinishes : Prop :=
  ∀ s : State, s.Inv → s.engine.isBusy = true → s.inputs = [] →
    ∃ n t, n ≤ 4 ∧ runSteps n s = .next t ∧ t.engine = .idle ∧ t.done = true

end
end

