-- ==== Sys2Proof/Laws/Decode.lean ====
section
/-!
SUPPORT. The small lemmas of the slot fields and of the words of the formats S and B.
-/
namespace Sys2Proof

@[simp] theorem Slot.ofNum_num (k : Slot) : Slot.ofNum k.num = some k := by
  cases k <;> rfl

/-- The number a slot is read from is its own number. -/
theorem Slot.num_of_ofNum {n : BitVec 4} {k : Slot} (h : Slot.ofNum n = some k) : k.num = n := by
  revert h
  revert n k
  decide

/-- A slot field names a slot exactly when it holds 0 to 6 (rules R20, R94). -/
theorem Slot.ofNum_isSome (n : BitVec 4) : (Slot.ofNum n).isSome = decide (n.toNat ≤ 6) := by
  revert n
  decide

theorem Slot.num_injective {j k : Slot} (h : j.num = k.num) : j = k := by
  cases j <;> cases k <;> first | rfl | exact absurd h (by decide)

/-- Slot 3, by its number, is the wide one (rule R20). -/
theorem Slot.isWide_iff_num (k : Slot) : k.isWide = decide (k.num = 3) := by
  cases k <;> rfl

@[simp] theorem opField_formatS (op : BitVec 8) (dir : BitVec 2) : opField (formatS op dir) = op := by
  apply BitVec.eq_of_getLsbD_eq
  intro n hn
  simp only [opField, formatS, BitVec.getLsbD_extractLsb', BitVec.getLsbD_append, hn]
  rw [if_neg (by omega), if_neg (by omega)]
  simp only [decide_true, Bool.true_and]
  congr 1
  omega

@[simp] theorem opField_formatB (op : BitVec 8) (dst src : BitVec 4) : opField (formatB op dst src) = op := by
  apply BitVec.eq_of_getLsbD_eq
  intro n hn
  simp only [opField, formatB, BitVec.getLsbD_extractLsb', BitVec.getLsbD_append, hn]
  rw [if_neg (by omega), if_neg (by omega), if_neg (by omega)]
  simp only [decide_true, Bool.true_and]
  congr 1
  omega

/-- A word is its format B fields (rule R92). -/
theorem word_eq_formatB_fields (x : Word) : x = opField x ++ dstField x ++ srcField x ++ x.extractLsb' 0 16 := by
  apply BitVec.eq_of_getLsbD_eq
  intro n hn
  simp only [opField, dstField, srcField, BitVec.getLsbD_extractLsb', BitVec.getLsbD_append]
  split
  · simp [*]
  · split
    · simp [*]
      congr 1
      omega
    · split
      · simp [*]
        congr 1
        omega
      · have hop : n - 16 - 4 - 4 < 8 := by omega
        simp [hop]
        congr 1
        omega

/-- A word is its opcode and bits 23:0 (rule R90). -/
theorem word_eq_op_and_rest (x : Word) : x = opField x ++ x.extractLsb' 0 24 := by
  apply BitVec.eq_of_getLsbD_eq
  intro n hn
  simp only [opField, BitVec.getLsbD_extractLsb', BitVec.getLsbD_append]
  split
  · simp [*]
  · have hop : n - 24 < 8 := by omega
    simp [hop]
    congr 1
    omega

/-- A word is its format S fields (rule R91). -/
theorem word_eq_formatS_fields (x : Word) : x = opField x ++ x.extractLsb' 2 22 ++ dirField x := by
  apply BitVec.eq_of_getLsbD_eq
  intro n hn
  simp only [opField, dirField, BitVec.getLsbD_extractLsb', BitVec.getLsbD_append]
  split
  · simp [*]
  · split
    · simp [*]
      congr 1
      omega
    · have hop : n - 2 - 22 < 8 := by omega
      simp [hop]
      congr 1
      omega

end Sys2Proof
end

