-- ==== Sys2Proof/Laws/State.lean ====
section
/-!
SUPPORT. One lemma per field and state update, true by `rfl`, so that no later proof unfolds a record update.
-/
namespace Sys2Proof.Machine

@[simp] theorem State.resetBlock_params (s : State) :
    s.resetBlock.params = s.params := rfl

@[simp] theorem State.resetBlock_mem (s : State) :
    s.resetBlock.mem = Memory.allEmpty := rfl

@[simp] theorem State.resetBlock_engine (s : State) :
    s.resetBlock.engine = .idle := rfl

@[simp] theorem State.resetBlock_cfg (s : State) :
    s.resetBlock.cfg = ⟨.rggb, 0, false, false⟩ := rfl

@[simp] theorem State.resetBlock_dim (s : State) :
    s.resetBlock.dim = ⟨0, 0⟩ := rfl

@[simp] theorem State.resetBlock_done (s : State) :
    s.resetBlock.done = false := rfl

@[simp] theorem State.resetBlock_oob (s : State) :
    s.resetBlock.oob = false := rfl

@[simp] theorem State.resetBlock_ctrl (s : State) :
    s.resetBlock.ctrl = ⟨false, false⟩ := rfl

@[simp] theorem State.resetBlock_bufSel (s : State) :
    s.resetBlock.bufSel = 0 := rfl

@[simp] theorem State.resetBlock_bufPos (s : State) :
    s.resetBlock.bufPos = ⟨0, 0⟩ := rfl

@[simp] theorem State.resetBlock_curCmd (s : State) :
    s.resetBlock.curCmd = 0 := rfl

@[simp] theorem State.resetBlock_inputs (s : State) :
    s.resetBlock.inputs = s.inputs := rfl

@[simp] theorem State.resetBlock_readData (s : State) :
    s.resetBlock.readData = s.readData := rfl

@[simp] theorem State.leaveFaulted_params (s : State) :
    s.leaveFaulted.params = s.params := rfl

@[simp] theorem State.leaveFaulted_mem (s : State) :
    s.leaveFaulted.mem = Memory.allEmpty := rfl

@[simp] theorem State.leaveFaulted_engine (s : State) :
    s.leaveFaulted.engine = .idle := rfl

@[simp] theorem State.leaveFaulted_cfg (s : State) :
    s.leaveFaulted.cfg = ⟨.rggb, 0, false, false⟩ := rfl

@[simp] theorem State.leaveFaulted_dim (s : State) :
    s.leaveFaulted.dim = ⟨0, 0⟩ := rfl

@[simp] theorem State.leaveFaulted_done (s : State) :
    s.leaveFaulted.done = false := rfl

@[simp] theorem State.leaveFaulted_oob (s : State) :
    s.leaveFaulted.oob = false := rfl

@[simp] theorem State.leaveFaulted_ctrl (s : State) :
    s.leaveFaulted.ctrl = ⟨false, false⟩ := rfl

@[simp] theorem State.leaveFaulted_bufSel (s : State) :
    s.leaveFaulted.bufSel = 0 := rfl

@[simp] theorem State.leaveFaulted_bufPos (s : State) :
    s.leaveFaulted.bufPos = ⟨0, 0⟩ := rfl

@[simp] theorem State.leaveFaulted_curCmd (s : State) :
    s.leaveFaulted.curCmd = 0 := rfl

@[simp] theorem State.leaveFaulted_inputs (s : State) :
    s.leaveFaulted.inputs = s.inputs := rfl

@[simp] theorem State.leaveFaulted_readData (s : State) :
    s.leaveFaulted.readData = s.readData := rfl

@[simp] theorem State.setSlot_params (s : State) (k : Slot) (v : Option Raster) :
    (s.setSlot k v).params = s.params := rfl

@[simp] theorem State.setSlot_mem (s : State) (k : Slot) (v : Option Raster) :
    (s.setSlot k v).mem = s.mem.setSlot k v := rfl

@[simp] theorem State.setSlot_engine (s : State) (k : Slot) (v : Option Raster) :
    (s.setSlot k v).engine = s.engine := rfl

@[simp] theorem State.setSlot_cfg (s : State) (k : Slot) (v : Option Raster) :
    (s.setSlot k v).cfg = s.cfg := rfl

@[simp] theorem State.setSlot_dim (s : State) (k : Slot) (v : Option Raster) :
    (s.setSlot k v).dim = s.dim := rfl

@[simp] theorem State.setSlot_done (s : State) (k : Slot) (v : Option Raster) :
    (s.setSlot k v).done = s.done := rfl

@[simp] theorem State.setSlot_oob (s : State) (k : Slot) (v : Option Raster) :
    (s.setSlot k v).oob = s.oob := rfl

@[simp] theorem State.setSlot_ctrl (s : State) (k : Slot) (v : Option Raster) :
    (s.setSlot k v).ctrl = s.ctrl := rfl

@[simp] theorem State.setSlot_bufSel (s : State) (k : Slot) (v : Option Raster) :
    (s.setSlot k v).bufSel = s.bufSel := rfl

@[simp] theorem State.setSlot_bufPos (s : State) (k : Slot) (v : Option Raster) :
    (s.setSlot k v).bufPos = s.bufPos := rfl

@[simp] theorem State.setSlot_curCmd (s : State) (k : Slot) (v : Option Raster) :
    (s.setSlot k v).curCmd = s.curCmd := rfl

@[simp] theorem State.setSlot_inputs (s : State) (k : Slot) (v : Option Raster) :
    (s.setSlot k v).inputs = s.inputs := rfl

@[simp] theorem State.setSlot_readData (s : State) (k : Slot) (v : Option Raster) :
    (s.setSlot k v).readData = s.readData := rfl

@[simp] theorem State.construct_params (s : State) (k : Slot) (b : Plane) :
    (s.construct k b).params = s.params := rfl

@[simp] theorem State.construct_mem (s : State) (k : Slot) (b : Plane) :
    (s.construct k b).mem = s.mem.setSlot k (some ⟨s.cfg.tagFor k, b⟩) := rfl

@[simp] theorem State.construct_engine (s : State) (k : Slot) (b : Plane) :
    (s.construct k b).engine = s.engine := rfl

@[simp] theorem State.construct_cfg (s : State) (k : Slot) (b : Plane) :
    (s.construct k b).cfg = s.cfg := rfl

@[simp] theorem State.construct_dim (s : State) (k : Slot) (b : Plane) :
    (s.construct k b).dim = s.dim := rfl

@[simp] theorem State.construct_done (s : State) (k : Slot) (b : Plane) :
    (s.construct k b).done = s.done := rfl

@[simp] theorem State.construct_oob (s : State) (k : Slot) (b : Plane) :
    (s.construct k b).oob = s.oob := rfl

@[simp] theorem State.construct_ctrl (s : State) (k : Slot) (b : Plane) :
    (s.construct k b).ctrl = s.ctrl := rfl

@[simp] theorem State.construct_bufSel (s : State) (k : Slot) (b : Plane) :
    (s.construct k b).bufSel = s.bufSel := rfl

@[simp] theorem State.construct_bufPos (s : State) (k : Slot) (b : Plane) :
    (s.construct k b).bufPos = s.bufPos := rfl

@[simp] theorem State.construct_curCmd (s : State) (k : Slot) (b : Plane) :
    (s.construct k b).curCmd = s.curCmd := rfl

@[simp] theorem State.construct_inputs (s : State) (k : Slot) (b : Plane) :
    (s.construct k b).inputs = s.inputs := rfl

@[simp] theorem State.construct_readData (s : State) (k : Slot) (b : Plane) :
    (s.construct k b).readData = s.readData := rfl

@[simp] theorem State.raise_params (s : State) (cause : FaultCause) (info : Word) :
    (s.raise cause info).params = s.params := rfl

@[simp] theorem State.raise_mem (s : State) (cause : FaultCause) (info : Word) :
    (s.raise cause info).mem = s.mem := rfl

@[simp] theorem State.raise_engine (s : State) (cause : FaultCause) (info : Word) :
    (s.raise cause info).engine = .faulted cause info := rfl

@[simp] theorem State.raise_cfg (s : State) (cause : FaultCause) (info : Word) :
    (s.raise cause info).cfg = s.cfg := rfl

@[simp] theorem State.raise_dim (s : State) (cause : FaultCause) (info : Word) :
    (s.raise cause info).dim = s.dim := rfl

@[simp] theorem State.raise_done (s : State) (cause : FaultCause) (info : Word) :
    (s.raise cause info).done = s.done := rfl

@[simp] theorem State.raise_oob (s : State) (cause : FaultCause) (info : Word) :
    (s.raise cause info).oob = s.oob := rfl

@[simp] theorem State.raise_ctrl (s : State) (cause : FaultCause) (info : Word) :
    (s.raise cause info).ctrl = s.ctrl := rfl

@[simp] theorem State.raise_bufSel (s : State) (cause : FaultCause) (info : Word) :
    (s.raise cause info).bufSel = s.bufSel := rfl

@[simp] theorem State.raise_bufPos (s : State) (cause : FaultCause) (info : Word) :
    (s.raise cause info).bufPos = s.bufPos := rfl

@[simp] theorem State.raise_curCmd (s : State) (cause : FaultCause) (info : Word) :
    (s.raise cause info).curCmd = s.curCmd := rfl

@[simp] theorem State.raise_inputs (s : State) (cause : FaultCause) (info : Word) :
    (s.raise cause info).inputs = s.inputs := rfl

@[simp] theorem State.raise_readData (s : State) (cause : FaultCause) (info : Word) :
    (s.raise cause info).readData = s.readData := rfl

@[simp] theorem State.latchCommand_params (s : State) (x : Word) :
    (s.latchCommand x).params = s.params := rfl

@[simp] theorem State.latchCommand_mem (s : State) (x : Word) :
    (s.latchCommand x).mem = s.mem := rfl

@[simp] theorem State.latchCommand_engine (s : State) (x : Word) :
    (s.latchCommand x).engine = s.engine := rfl

@[simp] theorem State.latchCommand_cfg (s : State) (x : Word) :
    (s.latchCommand x).cfg = s.cfg := rfl

@[simp] theorem State.latchCommand_dim (s : State) (x : Word) :
    (s.latchCommand x).dim = s.dim := rfl

@[simp] theorem State.latchCommand_done (s : State) (x : Word) :
    (s.latchCommand x).done = false := rfl

@[simp] theorem State.latchCommand_oob (s : State) (x : Word) :
    (s.latchCommand x).oob = s.oob := rfl

@[simp] theorem State.latchCommand_ctrl (s : State) (x : Word) :
    (s.latchCommand x).ctrl = s.ctrl := rfl

@[simp] theorem State.latchCommand_bufSel (s : State) (x : Word) :
    (s.latchCommand x).bufSel = s.bufSel := rfl

@[simp] theorem State.latchCommand_bufPos (s : State) (x : Word) :
    (s.latchCommand x).bufPos = s.bufPos := rfl

@[simp] theorem State.latchCommand_curCmd (s : State) (x : Word) :
    (s.latchCommand x).curCmd = x := rfl

@[simp] theorem State.latchCommand_inputs (s : State) (x : Word) :
    (s.latchCommand x).inputs = s.inputs := rfl

@[simp] theorem State.latchCommand_readData (s : State) (x : Word) :
    (s.latchCommand x).readData = s.readData := rfl

@[simp] theorem State.start_params (s : State) (st : Stage) :
    (s.start st).params = s.params := rfl

@[simp] theorem State.start_mem (s : State) (st : Stage) :
    (s.start st).mem = s.mem := rfl

@[simp] theorem State.start_engine (s : State) (st : Stage) :
    (s.start st).engine = .busy st := rfl

@[simp] theorem State.start_cfg (s : State) (st : Stage) :
    (s.start st).cfg = s.cfg := rfl

@[simp] theorem State.start_dim (s : State) (st : Stage) :
    (s.start st).dim = s.dim := rfl

@[simp] theorem State.start_done (s : State) (st : Stage) :
    (s.start st).done = s.done := rfl

@[simp] theorem State.start_oob (s : State) (st : Stage) :
    (s.start st).oob = s.oob := rfl

@[simp] theorem State.start_ctrl (s : State) (st : Stage) :
    (s.start st).ctrl = s.ctrl := rfl

@[simp] theorem State.start_bufSel (s : State) (st : Stage) :
    (s.start st).bufSel = s.bufSel := rfl

@[simp] theorem State.start_bufPos (s : State) (st : Stage) :
    (s.start st).bufPos = s.bufPos := rfl

@[simp] theorem State.start_curCmd (s : State) (st : Stage) :
    (s.start st).curCmd = s.curCmd := rfl

@[simp] theorem State.start_inputs (s : State) (st : Stage) :
    (s.start st).inputs = s.inputs := rfl

@[simp] theorem State.start_readData (s : State) (st : Stage) :
    (s.start st).readData = s.readData := rfl

@[simp] theorem State.finish_params (s : State) :
    s.finish.params = s.params := rfl

@[simp] theorem State.finish_mem (s : State) :
    s.finish.mem = s.mem := rfl

@[simp] theorem State.finish_engine (s : State) :
    s.finish.engine = .idle := rfl

@[simp] theorem State.finish_cfg (s : State) :
    s.finish.cfg = s.cfg := rfl

@[simp] theorem State.finish_dim (s : State) :
    s.finish.dim = s.dim := rfl

@[simp] theorem State.finish_done (s : State) :
    s.finish.done = true := rfl

@[simp] theorem State.finish_oob (s : State) :
    s.finish.oob = s.oob := rfl

@[simp] theorem State.finish_ctrl (s : State) :
    s.finish.ctrl = s.ctrl := rfl

@[simp] theorem State.finish_bufSel (s : State) :
    s.finish.bufSel = s.bufSel := rfl

@[simp] theorem State.finish_bufPos (s : State) :
    s.finish.bufPos = s.bufPos := rfl

@[simp] theorem State.finish_curCmd (s : State) :
    s.finish.curCmd = s.curCmd := rfl

@[simp] theorem State.finish_inputs (s : State) :
    s.finish.inputs = s.inputs := rfl

@[simp] theorem State.finish_readData (s : State) :
    s.finish.readData = s.readData := rfl

@[simp] theorem State.acceptIllegal_params (s : State) (x : Word) :
    (s.acceptIllegal x).params = s.params := rfl

@[simp] theorem State.acceptIllegal_mem (s : State) (x : Word) :
    (s.acceptIllegal x).mem = s.mem := rfl

@[simp] theorem State.acceptIllegal_engine (s : State) (x : Word) :
    (s.acceptIllegal x).engine = .faulted .illCmd x := rfl

@[simp] theorem State.acceptIllegal_cfg (s : State) (x : Word) :
    (s.acceptIllegal x).cfg = s.cfg := rfl

@[simp] theorem State.acceptIllegal_dim (s : State) (x : Word) :
    (s.acceptIllegal x).dim = s.dim := rfl

@[simp] theorem State.acceptIllegal_done (s : State) (x : Word) :
    (s.acceptIllegal x).done = false := rfl

@[simp] theorem State.acceptIllegal_oob (s : State) (x : Word) :
    (s.acceptIllegal x).oob = s.oob := rfl

@[simp] theorem State.acceptIllegal_ctrl (s : State) (x : Word) :
    (s.acceptIllegal x).ctrl = s.ctrl := rfl

@[simp] theorem State.acceptIllegal_bufSel (s : State) (x : Word) :
    (s.acceptIllegal x).bufSel = s.bufSel := rfl

@[simp] theorem State.acceptIllegal_bufPos (s : State) (x : Word) :
    (s.acceptIllegal x).bufPos = s.bufPos := rfl

@[simp] theorem State.acceptIllegal_curCmd (s : State) (x : Word) :
    (s.acceptIllegal x).curCmd = x := rfl

@[simp] theorem State.acceptIllegal_inputs (s : State) (x : Word) :
    (s.acceptIllegal x).inputs = s.inputs := rfl

@[simp] theorem State.acceptIllegal_readData (s : State) (x : Word) :
    (s.acceptIllegal x).readData = s.readData := rfl

@[simp] theorem State.portGet_params (s : State) :
    s.portGet.params = s.params := rfl

@[simp] theorem State.portGet_mem (s : State) :
    s.portGet.mem = s.mem := rfl

@[simp] theorem State.portGet_engine (s : State) :
    s.portGet.engine = s.engine := rfl

@[simp] theorem State.portGet_cfg (s : State) :
    s.portGet.cfg = s.cfg := rfl

@[simp] theorem State.portGet_dim (s : State) :
    s.portGet.dim = s.dim := rfl

@[simp] theorem State.portGet_done (s : State) :
    s.portGet.done = s.done := rfl

@[simp] theorem State.portGet_oob (s : State) :
    s.portGet.oob = (s.oob || s.portTarget.isNone) := rfl

@[simp] theorem State.portGet_ctrl (s : State) :
    s.portGet.ctrl = s.ctrl := rfl

@[simp] theorem State.portGet_bufSel (s : State) :
    s.portGet.bufSel = s.bufSel := rfl

@[simp] theorem State.portGet_bufPos (s : State) :
    s.portGet.bufPos = s.advancePos := rfl

@[simp] theorem State.portGet_curCmd (s : State) :
    s.portGet.curCmd = s.curCmd := rfl

@[simp] theorem State.portGet_inputs (s : State) :
    s.portGet.inputs = s.inputs := rfl

@[simp] theorem State.portGet_readData (s : State) :
    s.portGet.readData = s.readData := rfl

@[simp] theorem State.writeStatus_params (s : State) (d : Word) :
    (s.writeStatus d).params = s.params := rfl

@[simp] theorem State.writeStatus_mem (s : State) (d : Word) :
    (s.writeStatus d).mem = s.mem := rfl

@[simp] theorem State.writeStatus_engine (s : State) (d : Word) :
    (s.writeStatus d).engine = s.engine := rfl

@[simp] theorem State.writeStatus_cfg (s : State) (d : Word) :
    (s.writeStatus d).cfg = s.cfg := rfl

@[simp] theorem State.writeStatus_dim (s : State) (d : Word) :
    (s.writeStatus d).dim = s.dim := rfl

@[simp] theorem State.writeStatus_done (s : State) (d : Word) :
    (s.writeStatus d).done = (s.done && !wordBit d 1) := rfl

@[simp] theorem State.writeStatus_oob (s : State) (d : Word) :
    (s.writeStatus d).oob = (s.oob && !wordBit d 3) := rfl

@[simp] theorem State.writeStatus_ctrl (s : State) (d : Word) :
    (s.writeStatus d).ctrl = s.ctrl := rfl

@[simp] theorem State.writeStatus_bufSel (s : State) (d : Word) :
    (s.writeStatus d).bufSel = s.bufSel := rfl

@[simp] theorem State.writeStatus_bufPos (s : State) (d : Word) :
    (s.writeStatus d).bufPos = s.bufPos := rfl

@[simp] theorem State.writeStatus_curCmd (s : State) (d : Word) :
    (s.writeStatus d).curCmd = s.curCmd := rfl

@[simp] theorem State.writeStatus_inputs (s : State) (d : Word) :
    (s.writeStatus d).inputs = s.inputs := rfl

@[simp] theorem State.writeStatus_readData (s : State) (d : Word) :
    (s.writeStatus d).readData = s.readData := rfl

@[simp] theorem State.dropInput_params (s : State) :
    s.dropInput.params = s.params := rfl

@[simp] theorem State.dropInput_mem (s : State) :
    s.dropInput.mem = s.mem := rfl

@[simp] theorem State.dropInput_engine (s : State) :
    s.dropInput.engine = s.engine := rfl

@[simp] theorem State.dropInput_cfg (s : State) :
    s.dropInput.cfg = s.cfg := rfl

@[simp] theorem State.dropInput_dim (s : State) :
    s.dropInput.dim = s.dim := rfl

@[simp] theorem State.dropInput_done (s : State) :
    s.dropInput.done = s.done := rfl

@[simp] theorem State.dropInput_oob (s : State) :
    s.dropInput.oob = s.oob := rfl

@[simp] theorem State.dropInput_ctrl (s : State) :
    s.dropInput.ctrl = s.ctrl := rfl

@[simp] theorem State.dropInput_bufSel (s : State) :
    s.dropInput.bufSel = s.bufSel := rfl

@[simp] theorem State.dropInput_bufPos (s : State) :
    s.dropInput.bufPos = s.bufPos := rfl

@[simp] theorem State.dropInput_curCmd (s : State) :
    s.dropInput.curCmd = s.curCmd := rfl

@[simp] theorem State.dropInput_inputs (s : State) :
    s.dropInput.inputs = s.inputs.tail := rfl

@[simp] theorem State.dropInput_readData (s : State) :
    s.dropInput.readData = s.readData := rfl

@[simp] theorem State.presentWord_params (s : State) (x : Word) :
    (s.presentWord x).params = s.params := rfl

@[simp] theorem State.presentWord_mem (s : State) (x : Word) :
    (s.presentWord x).mem = s.mem := rfl

@[simp] theorem State.presentWord_engine (s : State) (x : Word) :
    (s.presentWord x).engine = .idle := rfl

@[simp] theorem State.presentWord_cfg (s : State) (x : Word) :
    (s.presentWord x).cfg = s.cfg := rfl

@[simp] theorem State.presentWord_dim (s : State) (x : Word) :
    (s.presentWord x).dim = s.dim := rfl

@[simp] theorem State.presentWord_done (s : State) (x : Word) :
    (s.presentWord x).done = s.done := rfl

@[simp] theorem State.presentWord_oob (s : State) (x : Word) :
    (s.presentWord x).oob = s.oob := rfl

@[simp] theorem State.presentWord_ctrl (s : State) (x : Word) :
    (s.presentWord x).ctrl = s.ctrl := rfl

@[simp] theorem State.presentWord_bufSel (s : State) (x : Word) :
    (s.presentWord x).bufSel = s.bufSel := rfl

@[simp] theorem State.presentWord_bufPos (s : State) (x : Word) :
    (s.presentWord x).bufPos = s.bufPos := rfl

@[simp] theorem State.presentWord_curCmd (s : State) (x : Word) :
    (s.presentWord x).curCmd = s.curCmd := rfl

@[simp] theorem State.presentWord_inputs (s : State) (x : Word) :
    (s.presentWord x).inputs = .write .word (commandAddress s.params) x :: s.inputs := rfl

@[simp] theorem State.presentWord_readData (s : State) (x : Word) :
    (s.presentWord x).readData = s.readData := rfl

end Sys2Proof.Machine
end

