-- ==== Sys2Proof/Laws/Plane.lean ====
section
/-!
SUPPORT. What the reads and writes of buffer values do: samples of a tabulated plane, its shape, its range, the safe
get, and a sample replaced.
-/
namespace Sys2Proof.Machine

@[simp] theorem Plane.tabulate_h (h w : Nat) (f : Nat → Nat → Int) : (Plane.tabulate h w f).h = h := rfl

@[simp] theorem Plane.tabulate_w (h w : Nat) (f : Nat → Nat → Int) : (Plane.tabulate h w f).w = w := rfl

@[simp] theorem Plane.tabulate_sample {h w r c : Nat} (f : Nat → Nat → Int) (hr : r < h) (hc : c < w) :
    (Plane.tabulate h w f).sample r c = f r c := by
  simp [Plane.tabulate, Plane.sample, List.getD_eq_getElem?_getD, hr, hc]

@[simp] theorem Plane.tabulate_wellShaped (h w : Nat) (f : Nat → Nat → Int) :
    (Plane.tabulate h w f).wellShaped = true := by
  simp [Plane.tabulate, Plane.wellShaped]

/-- Two tabulated planes are equal if their functions agree on the positions in bounds. -/
theorem Plane.tabulate_congr {h w : Nat} {f g : Nat → Nat → Int}
    (hfg : ∀ r c, r < h → c < w → f r c = g r c) : Plane.tabulate h w f = Plane.tabulate h w g := by
  simp only [Plane.tabulate, Plane.mk.injEq, true_and]
  refine List.map_congr_left fun r hr => List.map_congr_left fun c hc => ?_
  exact hfg r c (List.mem_range.mp hr) (List.mem_range.mp hc)

/-- A test of all samples of a tabulated plane, position by position. -/
theorem Plane.tabulate_allSamples {h w : Nat} {f : Nat → Nat → Int} {ok : Int → Bool} :
    (Plane.tabulate h w f).allSamples ok = true ↔ ∀ r c, r < h → c < w → ok (f r c) = true := by
  simp only [Plane.allSamples, Plane.tabulate, List.all_map, List.all_eq_true, List.mem_range, Function.comp_apply]
  exact ⟨fun hall r c hr hc => hall r hr c hc, fun hall r hr c hc => hall r c hr hc⟩

/-- A well-shaped plane is the tabulation of its own samples. -/
theorem Plane.eq_tabulate {b : Plane} (hb : b.wellShaped = true) : b = Plane.tabulate b.h b.w b.sample := by
  obtain ⟨h, w, rows⟩ := b
  simp only [Plane.wellShaped, Bool.and_eq_true, beq_iff_eq, List.all_eq_true] at hb
  obtain ⟨hlen, hrow⟩ := hb
  simp only [Plane.tabulate, Plane.sample, Plane.mk.injEq, true_and]
  refine List.ext_getElem (by simp [hlen]) fun r hr _ => ?_
  have hw : rows[r].length = w := hrow _ (List.getElem_mem hr)
  refine List.ext_getElem (by simp [hw]) fun c hc _ => ?_
  simp [List.getD_eq_getElem?_getD, hr, hc]

/-- A well-shaped plane is determined by its shape and its samples in bounds. -/
theorem Plane.ext_samples {b1 b2 : Plane} (h1 : b1.wellShaped = true) (h2 : b2.wellShaped = true)
    (hh : b1.h = b2.h) (hw : b1.w = b2.w)
    (hs : ∀ r c, r < b1.h → c < b1.w → b1.sample r c = b2.sample r c) : b1 = b2 := by
  rw [Plane.eq_tabulate h1, Plane.eq_tabulate h2, ← hh, ← hw]
  exact Plane.tabulate_congr hs

/-- A test that all samples of a well-shaped plane pass, read at one position. -/
theorem Plane.sample_of_allSamples {b : Plane} {ok : Int → Bool} (hb : b.wellShaped = true)
    (hall : b.allSamples ok = true) {r c : Nat} (hr : r < b.h) (hc : c < b.w) : ok (b.sample r c) = true := by
  rw [Plane.eq_tabulate hb] at hall
  exact Plane.tabulate_allSamples.mp hall r c hr hc

/-- The safe get in bounds (rule R112). -/
theorem Plane.get0_inside {b : Plane} {r c : Nat} (hr : r < b.h) (hc : c < b.w) :
    b.get0 (r : Int) (c : Int) = b.sample r c := by
  simp [Plane.get0, Plane.inBounds, hr, hc]

/-- The safe get out of bounds (rule R112). -/
theorem Plane.get0_outside {b : Plane} {r c : Int} (h : b.inBounds r c = false) : b.get0 r c = 0 := by
  simp [Plane.get0, h]

@[simp] theorem Plane.setSample_h (b : Plane) (r c : Nat) (v : Int) : (b.setSample r c v).h = b.h := rfl

@[simp] theorem Plane.setSample_w (b : Plane) (r c : Nat) (v : Int) : (b.setSample r c v).w = b.w := rfl

/-- A replaced sample reads as written. -/
theorem Plane.sample_setSample_same {b : Plane} (hb : b.wellShaped = true) {r c : Nat} (hr : r < b.h) (hc : c < b.w)
    (v : Int) : (b.setSample r c v).sample r c = v := by
  simp only [Plane.wellShaped, Bool.and_eq_true, beq_iff_eq, List.all_eq_true] at hb
  have hr' : r < b.rows.length := by omega
  have hw : b.rows[r].length = b.w := hb.2 _ (List.getElem_mem hr')
  simp [Plane.setSample, Plane.sample, List.getD_eq_getElem?_getD, List.getElem?_eq_getElem hr', hw, hc]

/-- Every other sample reads as before. -/
theorem Plane.sample_setSample_other {b : Plane} {r c r' c' : Nat} (hne : ¬(r' = r ∧ c' = c)) (v : Int) :
    (b.setSample r c v).sample r' c' = b.sample r' c' := by
  simp only [Plane.setSample, Plane.sample, List.getD_eq_getElem?_getD, List.getElem?_modify]
  by_cases hr : r = r'
  · subst hr
    have hc : c ≠ c' := fun h => hne ⟨rfl, h.symm⟩
    cases hrow : b.rows[r]? with
    | none => simp
    | some row => simp [List.getElem?_set_ne hc]
  · simp [hr]

theorem Plane.setSample_wellShaped {b : Plane} (hb : b.wellShaped = true) (r c : Nat) (v : Int) :
    (b.setSample r c v).wellShaped = true := by
  simp only [Plane.wellShaped, Bool.and_eq_true, beq_iff_eq, List.all_eq_true] at hb ⊢
  refine ⟨by simpa [Plane.setSample] using hb.1, fun row hrow => ?_⟩
  obtain ⟨n, hn, rfl⟩ := List.getElem_of_mem hrow
  simp only [Plane.setSample, List.length_modify] at hn
  have hlen := hb.2 _ (List.getElem_mem hn)
  simp only [Plane.setSample, List.getElem_modify]
  split <;> simpa using hlen

theorem Plane.setSample_allSamples {b : Plane} {ok : Int → Bool} (hall : b.allSamples ok = true) {r c : Nat} {v : Int}
    (hv : ok v = true) : (b.setSample r c v).allSamples ok = true := by
  simp only [Plane.allSamples, List.all_eq_true] at hall ⊢
  intro row hrow
  obtain ⟨n, hn, rfl⟩ := List.getElem_of_mem hrow
  simp only [Plane.setSample, List.length_modify] at hn
  have hold := hall _ (List.getElem_mem hn)
  simp only [Plane.setSample, List.getElem_modify]
  split
  · intro x hx
    rcases List.mem_or_eq_of_mem_set hx with h | h
    · exact hold x h
    · exact h ▸ hv
  · exact hold

end Sys2Proof.Machine
end

