-- ==== Sys2Proof/Laws/Memory.lean ====
section
/-!
SUPPORT. What the operations on the buffer space do: reads after writes of slots, and that every operation keeps the
form `Memory.wf`.
-/
namespace Sys2Proof.Machine

@[simp] theorem Memory.slot_setSlot_same (m : Memory) (k : Slot) (v : Option Raster) : (m.setSlot k v).slot k = v := by
  cases k <;> rfl

theorem Memory.slot_setSlot_other (m : Memory) {j k : Slot} (v : Option Raster) (h : j ≠ k) :
    (m.setSlot k v).slot j = m.slot j := by
  cases j <;> cases k <;> first | rfl | exact absurd rfl h

/-- A slot after a write to a slot. -/
theorem Memory.slot_setSlot (m : Memory) (j k : Slot) (v : Option Raster) :
    (m.setSlot k v).slot j = if j = k then v else m.slot j := by
  split
  · next h => subst h; exact Memory.slot_setSlot_same m j v
  · next h => exact Memory.slot_setSlot_other m v h

/-- Two buffer spaces are equal if every slot is. -/
theorem Memory.ext_slots {m1 m2 : Memory} (h : ∀ k, m1.slot k = m2.slot k) : m1 = m2 := by
  obtain ⟨a, b, c, d, e, f, g⟩ := m1
  obtain ⟨a', b', c', d', e', f', g'⟩ := m2
  have h0 := h .mosaic
  have h1 := h .greenV
  have h2 := h .greenH
  have h3 := h .cls
  have h4 := h .green
  have h5 := h .red
  have h6 := h .blue
  simp only [Memory.slot] at h0 h1 h2 h3 h4 h5 h6
  subst h0 h1 h2 h3 h4 h5 h6
  rfl

/-- The form of the buffer space, slot by slot. -/
theorem Memory.wf_iff {p : Params} {m : Memory} : m.wf p = true ↔ ∀ k, slotWf p k (m.slot k) = true := by
  simp only [Memory.wf, Bool.and_eq_true]
  constructor
  · rintro ⟨⟨⟨⟨⟨⟨h0, h1⟩, h2⟩, h3⟩, h4⟩, h5⟩, h6⟩ k
    cases k <;> assumption
  · intro h
    exact ⟨⟨⟨⟨⟨⟨h .mosaic, h .greenV⟩, h .greenH⟩, h .cls⟩, h .green⟩, h .red⟩, h .blue⟩

/-- The content of a valid slot has the form of its kind. -/
theorem Memory.raster_wf {p : Params} {m : Memory} {k : Slot} {ras : Raster} (h : m.wf p = true)
    (hk : m.slot k = some ras) : ras.wf p k = true := by
  have := Memory.wf_iff.mp h k
  rwa [hk] at this

/-- A slot written with content of its form keeps the form of the buffer space. -/
theorem Memory.setSlot_wf {p : Params} {m : Memory} {k : Slot} {v : Option Raster} (h : m.wf p = true)
    (hv : slotWf p k v = true) : (m.setSlot k v).wf p = true := by
  refine Memory.wf_iff.mpr fun j => ?_
  rw [Memory.slot_setSlot]
  split
  · next hjk => subst hjk; exact hv
  · exact Memory.wf_iff.mp h j

/-- A slot emptied keeps the form of the buffer space. -/
theorem Memory.clearSlot_wf {p : Params} {m : Memory} {k : Slot} (h : m.wf p = true) :
    (m.setSlot k none).wf p = true := Memory.setSlot_wf h rfl

theorem Memory.allEmpty_wf (p : Params) : Memory.allEmpty.wf p = true := rfl

/-- The four parts of a slot content's form. -/
theorem Raster.wf_iff {p : Params} {k : Slot} {ras : Raster} :
    ras.wf p k = true ↔ tagOK k ras.sw = true ∧ dimOK p ras.plane.h ras.plane.w = true ∧
      ras.plane.wellShaped = true ∧ ras.plane.allSamples (inRange k ras.sw) = true := by
  simp only [Raster.wf, Bool.and_eq_true, and_assoc]

/-- A word set through the port is in the range of its slot (rules R22, R64). -/
theorem wordToSample_inRange {k : Slot} {sw : SampleBytes} (d : Word) :
    inRange k sw (wordToSample k sw d) = true := by
  unfold inRange wordToSample
  split
  · have h1 := BitVec.toInt_lt (x := d)
    have h2 := BitVec.le_toInt (x := d)
    simp only [Bool.and_eq_true, decide_eq_true_eq]
    constructor <;> omega
  · have h3 : (0 : Int) ≤ sw.maxSample := by cases sw <;> decide
    simp only [Bool.and_eq_true, decide_eq_true_eq]
    constructor <;> omega

/-- What the buffer port reaches, when it reaches a sample (rules R63, R64). -/
theorem State.portTarget_eq_some {s : State} {k : Slot} {ras : Raster} (h : s.portTarget = some (k, ras)) :
    Slot.ofNum s.bufSel = some k ∧ s.mem.slot k = some ras ∧ s.bufPos.row.toNat < ras.plane.h ∧
      s.bufPos.col.toNat < ras.plane.w := by
  unfold State.portTarget at h
  cases hk : Slot.ofNum s.bufSel with
  | none => simp [hk] at h
  | some k' =>
    cases hm : s.mem.slot k' with
    | none => simp [hk, hm] at h
    | some ras' =>
      simp only [hk, hm] at h
      split at h
      · next hb =>
        obtain ⟨rfl, rfl⟩ : k' = k ∧ ras' = ras := by simpa using h
        exact ⟨rfl, hm, hb.1, hb.2⟩
      · cases h

/-- A set through the port keeps the form of the buffer space. -/
theorem State.portSet_wf {s : State} (h : s.mem.wf s.params = true) (d : Word) :
    (s.portSet d).mem.wf (s.portSet d).params = true := by
  unfold State.portSet
  cases ht : s.portTarget with
  | none => exact h
  | some kr =>
    obtain ⟨k, ras⟩ := kr
    obtain ⟨_, hslot, hr, hc⟩ := State.portTarget_eq_some ht
    obtain ⟨htag, hdim, hshape, hall⟩ := Raster.wf_iff.mp (Memory.raster_wf h hslot)
    refine Memory.setSlot_wf h (Raster.wf_iff.mpr ⟨htag, hdim, ?_, ?_⟩)
    · exact Plane.setSample_wellShaped hshape _ _ _
    · exact Plane.setSample_allSamples hall (wordToSample_inRange d)

/-- A read through the port changes no slot. -/
theorem State.portGet_wf {s : State} (h : s.mem.wf s.params = true) : s.portGet.mem.wf s.portGet.params = true := h

/-- A slot constructed from a plane of a legal shape, with samples in range, keeps the form of the buffer space. -/
theorem State.construct_wf {s : State} {k : Slot} {b : Plane} (h : s.mem.wf s.params = true)
    (htag : tagOK k (s.cfg.tagFor k) = true) (hdim : dimOK s.params b.h b.w = true) (hb : b.wellShaped = true)
    (hall : b.allSamples (inRange k (s.cfg.tagFor k)) = true) :
    (s.construct k b).mem.wf (s.construct k b).params = true :=
  Memory.setSlot_wf h (Raster.wf_iff.mpr ⟨htag, hdim, hb, hall⟩)

theorem State.reset_mem_wf : State.reset.mem.wf State.reset.params = true := rfl

theorem State.resetBlock_wf (s : State) : s.resetBlock.mem.wf s.resetBlock.params = true := rfl

end Sys2Proof.Machine
end

