-- ==== Sys2Proof/Laws/Ops.lean ====
section
/-!
SUPPORT. One lemma for each shared operation that says once everything it can do.
-/
namespace Sys2Proof.Machine

/-- What the acceptance of a command gives: a start at its first stage, or the fault of the first failing check (rules
R230, R271, R272). -/
theorem State.accept_cases (s : State) (i : Instr) (first : Stage) :
    (firstFault (s.latchCommand (encode i)) (acceptanceChecks i) = none ∧
      s.accept i first = (s.latchCommand (encode i)).start first) ∨
    ∃ cause info, firstFault (s.latchCommand (encode i)) (acceptanceChecks i) = some (cause, info) ∧
      s.accept i first = (s.latchCommand (encode i)).raise cause info := by
  unfold State.accept
  cases h : firstFault (s.latchCommand (encode i)) (acceptanceChecks i) with
  | none => exact .inl ⟨rfl, rfl⟩
  | some ci => exact .inr ⟨ci.1, ci.2, rfl, rfl⟩

/-- What a command of one stage does, when it gives a next state (rules R230, R233, R273). -/
theorem runSingleStage_cases {i : Instr} {stage : Stage} {work : State → State} {s t : State}
    (h : runSingleStage i stage work s = .next t) :
    (s.engine = .idle ∧ t = s.accept i stage) ∨ (s.engine = .busy stage ∧ t = (work s).finish) ∨
    (∃ cause info, s.engine = .faulted cause info ∧ t = s) := by
  unfold runSingleStage at h
  split at h
  · next he => exact .inl ⟨he, by simpa using h.symm⟩
  · next st he =>
    split at h
    · next hst => exact .inr (.inl ⟨hst ▸ he, by simpa using h.symm⟩)
    · cases h
  · next c w he => exact .inr (.inr ⟨c, w, he, by simpa using h.symm⟩)

theorem runSingleStage_idle {i : Instr} {stage : Stage} {work : State → State} {s : State} (h : s.engine = .idle) :
    runSingleStage i stage work s = .next (s.accept i stage) := by
  simp [runSingleStage, h]

theorem runSingleStage_busy {i : Instr} {stage : Stage} {work : State → State} {s : State}
    (h : s.engine = .busy stage) : runSingleStage i stage work s = .next (work s).finish := by
  simp [runSingleStage, h]

theorem runSingleStage_faulted {i : Instr} {stage : Stage} {work : State → State} {s : State} {cause : FaultCause}
    {info : Word} (h : s.engine = .faulted cause info) : runSingleStage i stage work s = .next s := by
  simp [runSingleStage, h]

/-- The checks pass together exactly when each passes (rule R271). -/
theorem firstFault_eq_none {s : State} {checks : List Check} :
    firstFault s checks = none ↔ ∀ c ∈ checks, checkFault s c = none := by
  simp [firstFault]

@[simp] theorem firstFault_nil (s : State) : firstFault s [] = none := rfl

/-- The first failing check is reported (rule R271). -/
theorem firstFault_cons (s : State) (c : Check) (rest : List Check) :
    firstFault s (c :: rest) = (checkFault s c).or (firstFault s rest) := by
  cases h : checkFault s c <;> simp [firstFault, h]

/-- The checks read the slots, `CFG`, `DIM` and the parameters, and nothing else. -/
theorem checkFault_congr {s t : State} (hp : t.params = s.params) (hm : t.mem = s.mem) (hc : t.cfg = s.cfg)
    (hd : t.dim = s.dim) (c : Check) : checkFault t c = checkFault s c := by
  have hdims : t.dimsOK = s.dimsOK := by unfold State.dimsOK; rw [hp, hd]
  have hshape : ∀ k, t.shapeOK k = s.shapeOK k := by intro k; unfold State.shapeOK; rw [hm, hc, hd]
  cases c with
  | legal i => rfl
  | width => simp [checkFault, hc]
  | dims => simp [checkFault, hdims, hd]
  | hasBuf k => simp [checkFault, hm]
  | hasShape k => simp [checkFault, hshape]

theorem firstFault_congr {s t : State} (hp : t.params = s.params) (hm : t.mem = s.mem) (hc : t.cfg = s.cfg)
    (hd : t.dim = s.dim) (checks : List Check) : firstFault t checks = firstFault s checks := by
  unfold firstFault
  congr 1
  exact funext fun c => checkFault_congr hp hm hc hd c

@[simp] theorem firstFault_latchCommand (s : State) (x : Word) (checks : List Check) :
    firstFault (s.latchCommand x) checks = firstFault s checks := firstFault_congr rfl rfl rfl rfl checks

@[simp] theorem firstFault_start (s : State) (st : Stage) (checks : List Check) :
    firstFault (s.start st) checks = firstFault s checks := firstFault_congr rfl rfl rfl rfl checks

/-- The input of a stage depends on the slot, and on `DIM`. -/
theorem State.input_congr {s t : State} {k : Slot} (hm : t.mem.slot k = s.mem.slot k) (hd : t.dim = s.dim) :
    t.input k = s.input k := by
  simp [State.input, Memory.plane, hm, hd]

/-- With `ShapeOK`, the input of a stage is the slot's own buffer value (rule R24). -/
theorem State.input_of_shapeOK {s : State} {k : Slot} (h : s.shapeOK k = true) :
    ∃ ras, s.mem.slot k = some ras ∧ s.input k = ras.plane ∧ ras.plane.h = s.dim.h.toNat ∧
      ras.plane.w = s.dim.w.toNat ∧ (k.isWide = false → ras.sw = s.cfg.sampleBytes) := by
  unfold State.shapeOK at h
  cases hk : s.mem.slot k with
  | none => simp [hk] at h
  | some ras =>
    simp only [hk, Bool.and_eq_true, beq_iff_eq, Bool.or_eq_true] at h
    obtain ⟨⟨hh, hw⟩, hsw⟩ := h
    refine ⟨ras, rfl, ?_, hh, hw, fun hkind => ?_⟩
    · simp [State.input, Memory.plane, hk, ← hh, ← hw]
    · rcases hsw with hwide | hsw
      · rw [hkind] at hwide; cases hwide
      · exact hsw

theorem accessOffset_eq_ok {p : Params} {width : AccessWidth} {addr off : Nat}
    (h : accessOffset p width addr = .ok off) :
    p.base ≤ addr ∧ addr < p.base + 64 ∧ width = .word ∧ (addr - p.base) % 4 = 0 ∧ off = addr - p.base := by
  unfold accessOffset at h
  split at h
  · cases h
  · split at h
    · next hb hw =>
      refine ⟨by omega, by omega, hw.1, hw.2, by simpa using h.symm⟩
    · cases h

theorem accessOffset_of_offset (p : Params) {off : Nat} (hlt : off < 64) (h4 : off % 4 = 0) :
    accessOffset p .word (p.base + off) = .ok off := by
  unfold accessOffset
  rw [if_neg (by omega), if_pos ⟨rfl, by omega⟩]
  simp

@[simp] theorem accessOffset_commandAddress (p : Params) : accessOffset p .word (commandAddress p) = .ok 0x0C :=
  accessOffset_of_offset p (by decide) (by decide)

/-- The ways the engine's turn comes without an entry of the schedule being used up: none is left, or the next access is
held (rules R68, R312). -/
def TurnWithoutEntry (s : State) : Prop :=
  s.inputs = [] ∨
    (∃ off d rest, off < 64 ∧ off % 4 = 0 ∧ s.inputs = .write .word (s.params.base + off) d :: rest) ∨
    ∃ rest, s.inputs = .read .word (s.params.base + 0x20) :: rest

/-- Everything a step can be (rules R68, R70, R280, R300, R302). -/
theorem step_cases (s : State) :
    (s.inputs = [] ∧ s.engine.isBusy = false ∧ step s = .next s) ∨
    (s.engine.isBusy = true ∧ TurnWithoutEntry s ∧ step s = engineStep s) ∨
    (s.engine.isBusy = true ∧ (∃ rest, s.inputs = .engineTurn :: rest) ∧ step s = engineStep s.dropInput) ∨
    (s.engine.isBusy = false ∧ (∃ rest, s.inputs = .engineTurn :: rest) ∧ step s = .next s.dropInput) ∨
    ((∃ rest, s.inputs = .hardReset :: rest) ∧ step s = .next s.dropInput.resetBlock) ∨
    (∃ off rest, off < 64 ∧ off % 4 = 0 ∧ (s.engine.isBusy = true → off ≠ 0x20) ∧
      s.inputs = .read .word (s.params.base + off) :: rest ∧ step s = .next (readRegister off s.dropInput)) ∨
    (∃ off d rest, off < 64 ∧ off % 4 = 0 ∧ s.engine.isBusy = false ∧
      s.inputs = .write .word (s.params.base + off) d :: rest ∧ step s = writeRegister off d s.dropInput) ∨
    (∃ why, (why = .outsideTheWindow ∨ why = .notAnAlignedWord) ∧ step s = .refused why) := by
  have hwhy : ∀ {p : Params} {wd : AccessWidth} {a : Nat} {why : Refusal}, accessOffset p wd a = .error why →
      why = .outsideTheWindow ∨ why = .notAnAlignedWord := by
    intro p wd a why h
    unfold accessOffset at h
    split at h
    · exact .inl (by simpa using h.symm)
    · split at h
      · cases h
      · exact .inr (by simpa using h.symm)
  unfold step agentStep
  cases hi : s.inputs with
  | nil =>
    cases hb : s.engine.isBusy
    · exact .inl ⟨rfl, rfl, by simp⟩
    · exact .inr (.inl ⟨rfl, .inl hi, by simp⟩)
  | cons e rest =>
    cases e with
    | read wd a =>
      simp only [hostStep]
      cases ho : accessOffset s.params wd a with
      | error why => exact .inr (.inr (.inr (.inr (.inr (.inr (.inr ⟨why, hwhy ho, rfl⟩))))))
      | ok off =>
        obtain ⟨hlo, hhi, rfl, h4, rfl⟩ := accessOffset_eq_ok ho
        have ha : s.params.base + (a - s.params.base) = a := by omega
        simp only [hostRead]
        by_cases hh : (s.engine.isBusy && a - s.params.base == 0x20) = true
        · simp only [Bool.and_eq_true, beq_iff_eq] at hh
          refine .inr (.inl ⟨hh.1, .inr (.inr ⟨rest, ?_⟩), by simp [hh.1, hh.2]⟩)
          rw [← hh.2, ha]
          exact hi
        · rw [if_neg hh]
          refine .inr (.inr (.inr (.inr (.inr (.inl
            ⟨a - s.params.base, rest, by omega, h4, fun hb ho => hh ?_, by rw [ha], rfl⟩)))))
          simp [hb, ho]
    | write wd a d =>
      simp only [hostStep]
      cases ho : accessOffset s.params wd a with
      | error why => exact .inr (.inr (.inr (.inr (.inr (.inr (.inr ⟨why, hwhy ho, rfl⟩))))))
      | ok off =>
        obtain ⟨hlo, hhi, rfl, h4, rfl⟩ := accessOffset_eq_ok ho
        have ha : s.params.base + (a - s.params.base) = a := by omega
        simp only [hostWrite]
        cases hb : s.engine.isBusy
        · exact .inr (.inr (.inr (.inr (.inr (.inr (.inl
            ⟨a - s.params.base, d, rest, by omega, h4, rfl, by rw [ha], by simp⟩))))))
        · refine .inr (.inl ⟨rfl, .inr (.inl ⟨a - s.params.base, d, rest, by omega, h4, ?_⟩), by simp⟩)
          rw [ha]
          exact hi
    | hardReset => exact .inr (.inr (.inr (.inr (.inl ⟨⟨rest, rfl⟩, rfl⟩))))
    | engineTurn =>
      simp only [hostStep]
      cases hb : s.engine.isBusy
      · exact .inr (.inr (.inr (.inl ⟨rfl, ⟨rest, rfl⟩, by simp⟩)))
      · exact .inr (.inr (.inl ⟨rfl, ⟨rest, rfl⟩, by simp⟩))

/-- What a performed write does, by offset: a register written, a command presented, the port set, or nothing (rules R30
to R43). -/
theorem writeRegister_cases (off : Nat) (d : Word) (s : State) :
    (off = 0x0C ∧ writeRegister off d s = writeCommand d s) ∨
    ∃ t, writeRegister off d s = .next t ∧
      (t = { s with cfg := t.cfg, dim := t.dim, done := t.done, oob := t.oob, ctrl := t.ctrl, bufSel := t.bufSel,
                    bufPos := t.bufPos } ∨
        (off = 0x14 ∧ wordBit d 31 = true ∧ t = s.resetBlock) ∨ (off = 0x20 ∧ t = s.portSet d)) := by
  unfold writeRegister
  by_cases h4 : off = 0x04
  · exact .inr ⟨_, by rw [if_pos h4], .inl rfl⟩
  by_cases h8 : off = 0x08
  · exact .inr ⟨_, by rw [if_neg h4, if_pos h8], .inl rfl⟩
  by_cases hc : off = 0x0C
  · exact .inl ⟨hc, by rw [if_neg h4, if_neg h8, if_pos hc]⟩
  by_cases h10 : off = 0x10
  · exact .inr ⟨_, by rw [if_neg h4, if_neg h8, if_neg hc, if_pos h10], .inl rfl⟩
  by_cases h14 : off = 0x14
  · refine .inr ⟨_, by rw [if_neg h4, if_neg h8, if_neg hc, if_neg h10, if_pos h14], ?_⟩
    unfold writeCtrl
    split
    · next hb => exact .inr (.inl ⟨h14, hb, rfl⟩)
    · exact .inl rfl
  by_cases h18 : off = 0x18
  · exact .inr ⟨_, by rw [if_neg h4, if_neg h8, if_neg hc, if_neg h10, if_neg h14, if_pos h18], .inl rfl⟩
  by_cases h1c : off = 0x1C
  · exact .inr ⟨_, by rw [if_neg h4, if_neg h8, if_neg hc, if_neg h10, if_neg h14, if_neg h18, if_pos h1c], .inl rfl⟩
  by_cases h20 : off = 0x20
  · exact .inr ⟨_, by rw [if_neg h4, if_neg h8, if_neg hc, if_neg h10, if_neg h14, if_neg h18, if_neg h1c, if_pos h20],
      .inr (.inr ⟨h20, rfl⟩)⟩
  · exact .inr ⟨s, by rw [if_neg h4, if_neg h8, if_neg hc, if_neg h10, if_neg h14, if_neg h18, if_neg h1c, if_neg h20],
      .inl rfl⟩

/-- A read changes nothing but `OOB`, `BUF_POS` and the word returned (rules R63, R69). -/
theorem readRegister_frame (off : Nat) (s : State) :
    readRegister off s =
      { s with oob := (readRegister off s).oob, bufPos := (readRegister off s).bufPos
               readData := some (readWord off s) } := by
  unfold readRegister
  split <;> rfl

/-- The input of a stage with `ShapeOK` is the slot's buffer value (rule R24). -/
theorem State.input_eq_plane {s : State} {k : Slot} (h : s.shapeOK k = true) : s.input k = s.mem.plane k := by
  obtain ⟨ras, hslot, hin, _⟩ := State.input_of_shapeOK h
  simp [hin, Memory.plane, hslot]

/-- A command whose checks pass starts at its first stage (rule R230). -/
theorem State.accept_of_checks {s : State} {i : Instr} {first : Stage}
    (h : firstFault s (acceptanceChecks i) = none) : s.accept i first = (s.latchCommand (encode i)).start first := by
  unfold State.accept
  rw [firstFault_latchCommand, h]

/-- The checks of input slots pass when each slot is of the shape (rules R24, R271). -/
theorem inputChecks_pass {s : State} {slots : List Slot} (h : ∀ k ∈ slots, s.shapeOK k = true) :
    firstFault s (inputChecks slots) = none := by
  induction slots with
  | nil => rfl
  | cons k rest ih =>
    have hk := h k List.mem_cons_self
    obtain ⟨ras, hslot, _⟩ := State.input_of_shapeOK hk
    simp [inputChecks, firstFault_cons, checkFault, Memory.valid, hslot, hk, ih fun j hj => h j (List.mem_cons_of_mem k hj)]

/-- Within bounds, as a proposition (rule R11). -/
theorem Plane.inBounds_iff {b : Plane} {r c : Int} :
    b.inBounds r c = true ↔ 0 ≤ r ∧ r < b.h ∧ 0 ≤ c ∧ c < b.w := by
  simp [Plane.inBounds, and_assoc]

/-- `CFG.SWC < 2`, as a proposition (rule R32). -/
theorem Cfg.widthOK_iff {cfg : Cfg} : cfg.widthOK = true ↔ cfg.swc.toNat < 2 := by
  simp [Cfg.widthOK]

/-- `DimOK`, as a proposition (rule R7). -/
theorem dimOK_iff {p : Params} {h w : Nat} :
    dimOK p h w = true ↔ 2 ≤ h ∧ 2 ≤ w ∧ h % 2 = 0 ∧ w % 2 = 0 ∧ h ≤ p.maxDim ∧ w ≤ p.maxDim ∧ h * w ≤ p.capPixels := by
  simp [dimOK, and_assoc]

end Sys2Proof.Machine
end

