-- ==== Sys2Proof/Laws/PerInstr.lean ====
section
/-!
SUPPORT. Statements about every instruction as syntax, one lemma per constructor: the word of an instruction is of the
row of the opcode map that has its mnemonic (rule R96, rule R261 for the reserved row).
-/
namespace Sys2Proof.Laws.TableRow

/-- The word of the instruction is of its own row of the opcode map. -/
def Statement (i : Instr) : Prop :=
  ∃ row ∈ opcodeTable, row.mnemonic = i.mnemonic ∧ row.holds (encode i) = true

theorem igdH : Statement .igdH := by unfold Statement; decide

theorem igdV : Statement .igdV := by unfold Statement; decide

theorem igdVH : Statement .igdVH := by unfold Statement; decide

theorem ccd : Statement .ccd := by unfold Statement; decide

theorem mrg : Statement .mrg := by unfold Statement; decide

theorem rrb : Statement .rrb := by unfold Statement; decide

theorem demosaic : Statement .demosaic := by unfold Statement; decide

theorem balloc (dst : Slot) : Statement (.balloc dst) := by
  unfold Statement
  cases dst <;> decide

theorem bcopy (dst src : Slot) : Statement (.bcopy dst src) := by
  unfold Statement
  cases dst <;> cases src <;> decide

theorem bmove (dst src : Slot) : Statement (.bmove dst src) := by
  unfold Statement
  cases dst <;> cases src <;> decide

theorem bfree (dst : Slot) : Statement (.bfree dst) := by
  unfold Statement
  cases dst <;> decide

theorem refine (payload : BitVec 24) : Statement (.refine payload) := by
  refine ⟨⟨"REFINE", 0xFF000000, 0x14000000⟩, by decide, rfl, ?_⟩
  simp only [OpcodeRow.holds, encode, beq_iff_eq]
  have hmask : (0xFF000000 : Word) = 0xFF#8 ++ 0#24 := by decide
  have hpat : (0x14000000 : Word) = 0x14#8 ++ 0#24 := by decide
  rw [hmask, hpat, BitVec.and_append]
  simp

end Sys2Proof.Laws.TableRow
end

