-- ==== Sys2Proof/Tests/Slice0.lean ====
section
/-!
SUPPORT. Tests and witnesses. The expected words and samples are those of 95_test_vectors.md, whose vector each test
names; the witnesses show, for each statement with hypotheses, concrete data that meet them together.
-/
namespace Sys2Proof.Machine

/-! ### Helpers -/

/-- A plane from its rows. -/
def planeOf (rows : List (List Int)) : Plane := { h := rows.length, w := (rows.headD []).length, rows := rows }

/-- A valid sample slot of one byte a sample. -/
def samples8 (rows : List (List Int)) : Option Raster := some { sw := .one, plane := planeOf rows }

/-- A valid slot 3. -/
def wide (rows : List (List Int)) : Option Raster := some { sw := .four, plane := planeOf rows }

/-- The reset state with `DIM` and one slot set. -/
def withSlot (h w : Nat) (k : Slot) (v : Option Raster) : State :=
  { State.reset with dim := { h := BitVec.ofNat 16 h, w := BitVec.ofNat 16 w }, mem := Memory.allEmpty.setSlot k v }

/-- The engine at a stage of a command. -/
def inProgress (i : Instr) (st : Stage) (s : State) : State :=
  { s with engine := .busy st, curCmd := encode i }

/-- The host's next accesses. -/
def withInputs (es : List HostEvent) (s : State) : State := { s with inputs := es }

/-- The store of a word to a register. -/
def store (off : Nat) (d : Word) : HostEvent := .write .word off d

/-- The load of a register. -/
def load (off : Nat) : HostEvent := .read .word off

/-- What holds of the next state, if there is one. -/
def after {α : Type} (f : State → α) : Host.Outcome State Fault Refusal → Option α
  | .next t => some (f t)
  | .fault _ => none
  | .refused _ => none

/-- The rows of a slot. -/
def rowsOf (k : Slot) (s : State) : List (List Int) := (s.mem.plane k).rows

/-- `STATUS`, `FAULT_INFO` and `CUR_CMD`. -/
def report (s : State) : Word × Word × Word := (s.statusWord, s.engine.infoWord, s.curCmd)

/-- The engine's step, then a view of the state. -/
def turn {α : Type} (f : State → α) (s : State) : Option α := after f (engineStep s)

/-- The state at the end of program P1, but for the port: every slot valid, 2×2. -/
def full : State :=
  { State.reset with
    dim := { h := 2, w := 2 }
    mem :=
      { mosaic := samples8 [[10, 20], [30, 40]]
        greenV := samples8 [[20, 20], [30, 30]]
        greenH := samples8 [[15, 20], [30, 35]]
        cls := wide [[-10, -10], [-10, -10]]
        green := samples8 [[15, 20], [30, 35]]
        red := samples8 [[10, 18], [28, 38]]
        blue := samples8 [[12, 22], [32, 40]] } }

/-- A faulted state (vector X5). -/
def stuck : State := { full with engine := .faulted .dimErr 0x00030004, curCmd := 0x20000000 }

/-! ### Syntax: well-formed and legal terms -/

theorem test_wellFormed_refuses_a_move_between_kinds :
    Instr.wellFormed (.bmove .cls .mosaic) = false ∧ Instr.wellFormed (.bmove .mosaic .cls) = false := by decide

theorem test_wellFormed_accepts_moves_within_a_kind :
    Instr.wellFormed (.bmove .cls .cls) = true ∧ Instr.wellFormed (.bmove .mosaic .green) = true := by decide

theorem test_legal_refuses_the_reserved_code :
    Instr.legal (.refine 0) = false ∧ Instr.legal (.bmove .cls .red) = false ∧ Instr.legal .demosaic = true := by decide

/-! ### Decode: vector 2.10 -/

theorem test_decode_stage_words :
    decodeOk 0x10000001 = some .igdH ∧ decodeOk 0x10000002 = some .igdV ∧ decodeOk 0x10000003 = some .igdVH ∧
    decodeOk 0x11000000 = some .ccd ∧ decodeOk 0x12000000 = some .mrg ∧ decodeOk 0x13000000 = some .rrb ∧
    decodeOk 0x1F000000 = some .demosaic := by decide

theorem test_decode_buffer_words :
    decodeOk 0x20000000 = some (.balloc .mosaic) ∧ decodeOk 0x20600000 = some (.balloc .blue) ∧
    decodeOk 0x21430000 = some (.bcopy .green .cls) ∧ decodeOk 0x21330000 = some (.bcopy .cls .cls) ∧
    decodeOk 0x22040000 = some (.bmove .mosaic .green) ∧ decodeOk 0x22330000 = some (.bmove .cls .cls) ∧
    decodeOk 0x23300000 = some (.bfree .cls) := by decide

/-- The word of `REFINE` has a name, but is not legal (rule R261; log entry 5). -/
theorem test_decode_reserved_word :
    decodeOk 0x14000000 = some (.refine 0) ∧ legalWord 0x14000000 = false ∧
    decodeOk 0x14ABCDEF = some (.refine 0xABCDEF) := by decide

theorem test_decode_rejects :
    [0x10000000, 0x10000004, 0x10000007, 0x10800001, 0x11000001, 0x1F800000, 0x20700000, 0x20010000, 0x21070000,
      0x22340000, 0x22030000, 0x23300001, 0x00000000, 0xFFFFFFFF, 0x24000000, 0x0F000000].map decodeOk =
    List.replicate 16 none := by decide

theorem test_decode_names_the_reason :
    (decode 0x10000000 matches .error .noDirection) ∧ (decode 0x10000004 matches .error .mustBeZero) ∧
    (decode 0x20700000 matches .error .noSuchSlot) ∧ (decode 0x22340000 matches .error .mixedKinds) ∧
    (decode 0x24000000 matches .error .unknownOpcode) := by decide

theorem test_decodeTableWord :
    decodeTableWord 32 0x21430000 = some (.bcopy .green .cls) ∧ decodeTableWord 32 0x12000000 = some .mrg := by decide

theorem test_fetched_word_runs_first :
    after State.statusWord (step (State.reset.withFetchWord 32 0x23500000)) = some 0x51 := by decide

/-! ### Primitives: vector 2.1 -/

theorem test_clampM :
    [-30, -1, 0, 77, 255, 256, 1530].map (clampM 255) = [0, 0, 0, 77, 255, 255, 255] := by decide

theorem test_tdiv2 :
    [0, 1, 2, 3, -1, -2, -3, -65, -156, 131070].map tdiv2 = [0, 0, 1, 1, 0, -1, -1, -32, -78, 65535] := by decide

theorem test_get0 :
    ((planeOf [[1, 2], [3, 4]]).get0 1 1, (planeOf [[1, 2], [3, 4]]).get0 (-1) 0,
      (planeOf [[1, 2], [3, 4]]).get0 1 2) = (4, 0, 0) := by decide

theorem test_shiftedCombine :
    (shiftedCombine .sub ⟨0, planeOf [[5, 1, 9, 4]]⟩ ⟨1, planeOf [[5, 1, 9, 4]]⟩ 0 2).map Plane.rows =
      some [[-4, -3, 9, 4]] ∧
    (shiftedCombine .sub ⟨0, planeOf [[5, 1, 9, 4]]⟩ ⟨1, planeOf [[5, 1, 9, 4]]⟩ 0 (-1)).map Plane.rows =
      some [[5, -4, 8, -5]] := by decide

theorem test_shr_rounds_down : (shrPlane (planeOf [[9, 8, 7, -3]]) 1).map Plane.rows = some [[4, 4, 3, -2]] := by decide

theorem test_halfSub :
    (halfSub (planeOf [[5, 4, 1, 255]]) (planeOf [[2, 1, 4, 0]])).map Plane.rows = some [[1, 2, -2, 127]] := by decide

theorem test_narrowSat : (narrowSat 255 (planeOf [[-7, 300, 12, 255]])).rows = [[0, 255, 12, 255]] := by decide

/-! ### The pipeline as functions: vectors 2.3 and 2.6 -/

/-- The mosaic of vector 2.3. -/
def mosaic44 : Plane := planeOf [[120, 200, 90, 40], [60, 30, 250, 10], [255, 0, 130, 70], [5, 180, 25, 160]]

theorem test_fir_4x4 :
    (fir 255 .rggb .vertical mosaic44).rows =
      [[35, 200, 183, 40], [60, 56, 250, 16], [104, 0, 144, 70], [5, 110, 25, 150]] ∧
    (fir 255 .rggb .horizontal mosaic44).rows =
      [[183, 200, 108, 40], [60, 134, 250, 163], [126, 0, 29, 70], [5, 52, 25, 63]] := by decide +kernel

theorem test_classifier_4x4 :
    (pipelineClassifier 255 .rggb mosaic44).rows =
      [[-113, 36, 36, 180], [-152, 84, 84, 228], [-152, 84, 84, 228], [-70, 166, 166, 289]] := by decide +kernel

theorem test_red_blue_4x4 :
    (pipelineRed 255 .rggb mosaic44).rows =
      [[120, 122, 90, 0], [93, 15, 197, 0], [255, 57, 130, 63], [69, 197, 18, 156]] ∧
    (pipelineBlue 255 .rggb mosaic44).rows =
      [[152, 187, 108, 37], [47, 30, 234, 10], [238, 22, 172, 72], [40, 180, 65, 160]] := by decide +kernel

theorem test_red_4x4_grbg :
    (pipelineRed 255 .grbg mosaic44).rows =
      [[143, 200, 128, 40], [153, 31, 219, 16], [233, 0, 99, 70], [59, 158, 0, 151]] := by decide +kernel

/-- The difference of vector 2.6(a). -/
def diff46 : Plane :=
  planeOf [[1, -2, 3, -4, 5, -6], [7, 8, -9, 10, 11, -12], [-13, 14, 15, 16, -17, 18], [19, -20, 21, 22, 23, 24]]

theorem test_windows_2_6a :
    (slidingWindow diff46).rows = [[24, 46, 45, 50, 30, 21], [44, 88, 110, 120, 120, 90], [44, 88, 110, 120, 120, 90],
      [42, 90, 107, 124, 122, 95]] ∧
    windowSum diff46 = slidingWindow diff46 ∧ fusedWindow diff46 = slidingWindow diff46 := by decide +kernel

/-! ### Commands, one step each -/

theorem test_igdH_F1 :
    turn (rowsOf .greenH) (inProgress .igdH .interpolate
      (withSlot 2 6 .mosaic (samples8 [[10, 20, 30, 40, 50, 60], [0, 0, 0, 0, 0, 0]]))) =
    some [[10, 20, 30, 40, 54, 60], [0, 0, 0, 0, 0, 0]] := by decide +kernel

/-- Vector F9 and program P5: the other pattern, and slot 1 not written. -/
theorem test_igdH_F9 :
    turn (fun t => (rowsOf .greenH t, t.mem.validWord)) (inProgress .igdH .interpolate
      { withSlot 2 6 .mosaic (samples8 [[10, 20, 30, 40, 50, 60], [0, 0, 0, 0, 0, 0]]) with
        cfg := { pattern := .grbg, swc := 0, parEn := false, vecEn := false } }) =
    some ([[10, 16, 30, 40, 50, 60], [0, 0, 0, 0, 0, 0]], 5) := by decide +kernel

/-- Vector 2.2, direction `V`. -/
theorem test_igdV_columns :
    turn (rowsOf .greenV) (inProgress .igdV .interpolate
      (withSlot 6 2 .mosaic (samples8 [[10, 10], [20, 20], [30, 30], [40, 40], [50, 50], [60, 60]]))) =
    some [[10, 10], [20, 16], [30, 30], [40, 40], [54, 50], [60, 60]] := by decide +kernel

/-- Vector 2.4(d). -/
theorem test_igdVH_2_4d :
    turn (fun t => (rowsOf .greenV t, rowsOf .greenH t, t.statusWord))
      (inProgress .igdVH .interpolate (withSlot 2 2 .mosaic (samples8 [[10, 20], [30, 40]]))) =
    some ([[20, 20], [30, 30]], [[15, 20], [30, 35]], 2) := by decide +kernel

theorem test_igdVH_X8 :
    after report (exec .igdVH { withSlot 2 2 .mosaic (samples8 [[0, 0], [0, 0]]) with dim := { h := 4, w := 4 } }) =
    some (0x00000504, 0x00000000, 0x10000003) := by decide

/-- Program P1, slot 3. -/
theorem test_ccd_P1 :
    turn (rowsOf .cls) (inProgress .ccd .classify full) = some [[-10, -10], [-10, -10]] := by decide +kernel

theorem test_ccd_X10 :
    after report (exec .ccd { withSlot 2 2 .mosaic (samples8 [[0, 0], [0, 0]]) with done := true }) =
    some (0x00000404, 0x00000001, 0x11000000) := by decide

/-- Vector 2.7. -/
theorem test_mrg_2_7 :
    turn (rowsOf .green) (inProgress .mrg .merge { full with
      mem := { full.mem with
        greenV := samples8 [[1, 2], [3, 4]], greenH := samples8 [[5, 6], [7, 8]], cls := wide [[-1, 0], [1, -5]] } }) =
    some [[5, 2], [3, 8]] := by decide +kernel

theorem test_mrg_X7 :
    after report (exec .mrg (withSlot 2 2 .mosaic (samples8 [[0, 0], [0, 0]]))) =
    some (0x00000404, 0x00000001, 0x12000000) := by decide

/-- Vector 2.8(a). -/
theorem test_rrb_2_8a :
    turn (fun t => (rowsOf .red t, rowsOf .blue t)) (inProgress .rrb .reconstruct { full with
      dim := { h := 2, w := 4 }
      mem := { full.mem with
        mosaic := samples8 [[200, 100, 50, 100], [100, 20, 100, 250]]
        green := samples8 [[100, 100, 100, 100], [90, 100, 100, 100]]
        cls := wide [[0, 0, -1, 0], [0, 5, 0, -7]] } }) =
    some ([[200, 125, 50, 75], [140, 52, 75, 220]], [[155, 60, 67, 175], [50, 20, 135, 250]]) := by decide +kernel

/-- Program P1: the stage of `STATUS` moves on. -/
theorem test_demosaic_moves_on :
    turn State.statusWord (inProgress .demosaic .interpolate full) = some 0x21 ∧
    turn State.statusWord (inProgress .demosaic .reconstruct full) = some 0x02 := by decide +kernel

theorem test_demosaic_X6 : after report (exec .demosaic State.reset) = some (0x00000304, 0, 0x1F000000) := by decide

/-- Vectors X3 and X5. -/
theorem test_balloc_X3_X5 :
    after report (exec (.balloc .mosaic) { State.reset with cfg := Cfg.ofWord 4, dim := Dim.ofWord 0x00020002 }) =
      some (0x00000204, 0x00000004, 0x20000000) ∧
    after report (exec (.balloc .mosaic) { State.reset with dim := Dim.ofWord 0x00030004 }) =
      some (0x00000304, 0x00030004, 0x20000000) := by decide

/-- Vectors X15 and X16: the bounds of the parameters. -/
theorem test_balloc_X15_X16 :
    after report (exec (.balloc .mosaic)
      { State.resetWith { Params.default with maxDim := 4096 } with dim := Dim.ofWord 0x10020002 }) =
      some (0x00000304, 0x10020002, 0x20000000) ∧
    after report (exec (.balloc .mosaic)
      { State.resetWith { Params.default with capPixels := 16 } with dim := Dim.ofWord 0x00040006 }) =
      some (0x00000304, 0x00040006, 0x20000000) := by decide

/-- Vector 2.9(g). -/
theorem test_bcopy_narrows :
    turn (fun t => (rowsOf .green t, t.mem.bytes .green)) (inProgress (.bcopy .green .cls) .bufferOp
      { full with mem := { full.mem with cls := wide [[-7, 300], [12, 255]] } }) =
    some ([[0, 255], [12, 255]], .one) := by decide +kernel

theorem test_bcopy_same_empty_slot :
    after report (exec (.bcopy .greenH .greenH) State.reset) = some (0x00000404, 2, 0x21220000) := by decide

/-- Program P2, line 12. -/
theorem test_bmove_empties_the_source :
    turn (fun t => (rowsOf .mosaic t, t.mem.valid .green)) (inProgress (.bmove .mosaic .green) .bufferOp full) =
    some ([[15, 20], [30, 35]], false) := by decide +kernel

theorem test_bmove_X11 :
    after report (exec (.bmove .mosaic .green) State.reset) = some (0x00000404, 4, 0x22040000) := by decide

theorem test_bfree_X12 :
    turn report (inProgress (.bfree .red) .bufferOp State.reset) = some (0x00000002, 0, 0x23500000) := by decide

theorem test_refine_X1 :
    after report (exec (.refine 0) State.reset) = some (0x00000104, 0x14000000, 0x14000000) := by decide

/-! ### Registers and the port -/

theorem test_reset_reads_the_identifier : readWord 0x00 State.reset = 0x4D440007 := by decide

/-- Vector X13: a command is ignored in `FAULTED`. -/
theorem test_faulted_ignores_commands :
    after report (step (withInputs [store 0x0C 0x20000000] stuck)) =
    some (0x00000304, 0x00030004, 0x20000000) := by decide

/-- Vector X14: soft reset. -/
theorem test_soft_reset :
    after (fun t => (report t, t.mem.validWord, t.dim.word)) (step (withInputs [store 0x14 0x80000000] stuck)) =
    some ((0, 0, 0), 0, 0) := by decide

/-- Vector 2.9(a): the port saturates, and the position wraps to the next row. -/
theorem test_port_write_saturates :
    after (fun t => (rowsOf .mosaic t, t.bufPos.word, t.oob))
      (step (withInputs [store 0x20 300] { full with bufPos := { row := 1, col := 1 } })) =
    some ([[10, 20], [30, 255]], 0x00020000, false) := by decide

/-- Vector 2.9(c): out of bounds. -/
theorem test_port_read_out_of_bounds :
    after (fun t => (t.readData, t.oob, t.bufPos.word))
      (step (withInputs [load 0x20] { full with bufPos := { row := 0, col := 5 } })) =
    some (some 0, true, 0x00010000) := by decide

/-- Vector 2.9(e): slot 3 is signed. -/
theorem test_port_write_signed :
    after (rowsOf .cls) (step (withInputs [store 0x20 0xFFFFFFFB] { full with bufSel := 3 })) =
    some [[-5, -10], [-10, -10]] := by decide

/-- Rule R68: a held write stays the next access while the engine steps. -/
theorem test_write_is_held_while_busy :
    after (fun t => (t.inputs, t.statusWord))
      (step (withInputs [store 0x04 1] (inProgress (.bfree .red) .bufferOp full))) =
    some ([store 0x04 1], 2) := by decide

theorem test_unaligned_access_is_refused :
    step (withInputs [.read .half 0] full) = .refused .notAnAlignedWord ∧
    step (withInputs [.read .word 2] full) = .refused .notAnAlignedWord ∧
    step (withInputs [load 64] full) = .refused .outsideTheWindow := ⟨rfl, rfl, rfl⟩

/-! ### Witnesses of the hypotheses -/

theorem witness_encoding :
    Instr.wellFormed (.bmove .cls .cls) = true ∧ decode 0x22330000 = .ok (.bmove .cls .cls) ∧
    Instr.wellFormed (.refine 0xFFFFFF) = true ∧ decode 0x14FFFFFF = .ok (.refine 0xFFFFFF) := ⟨rfl, rfl, rfl, rfl⟩

theorem witness_table_row :
    ∃ r1 ∈ opcodeTable, ∃ r2 ∈ opcodeTable, r1.holds 0x20600000 = true ∧ r2.holds 0x20600000 = true :=
  ⟨⟨"BALLOC", 0xFF0FFFFF, 0x20000000⟩, by decide, ⟨"BALLOC", 0xFF0FFFFF, 0x20000000⟩, by decide, by decide, by decide⟩

theorem witness_ClampSaturates :
    (0 : Int) ≤ 255 ∧ (-1 : Int) < 0 ∧ (255 : Int) < 256 ∧ (0 : Int) ≤ 0 ∧ (255 : Int) ≤ 255 := by decide

theorem witness_SafeGetIsZeroOutside :
    ((0 : Int) ≤ 1 ∧ (1 : Int) < (planeOf [[1, 2], [3, 4]]).h ∧ (0 : Int) ≤ 1 ∧ (1 : Int) < (planeOf [[1, 2], [3, 4]]).w) ∧
    ¬((0 : Int) ≤ 2 ∧ (2 : Int) < (planeOf [[1, 2], [3, 4]]).h ∧ (0 : Int) ≤ 0 ∧
      (0 : Int) < (planeOf [[1, 2], [3, 4]]).w) := by decide

/-- Operands of one shape, offsets in and out of bounds; operands of two shapes; an aliased pair with an offset. -/
theorem witness_ShiftedCombineIsPointwise :
    ((planeOf [[1, 2]]).h = (planeOf [[3, 4]]).h ∧ (planeOf [[1, 2]]).w = (planeOf [[3, 4]]).w) ∧
    ((0 : Nat) = 1 → (0 : Int) = 0 ∧ (1 : Int) = 0) ∧
    ((0 : Int) ≤ 0 + 1 ∧ (0 : Int) + 1 < 2) ∧ ¬((0 : Int) ≤ 1 + 1 ∧ (1 : Int) + 1 < 2) ∧
    ¬((planeOf [[1, 2]]).h = (planeOf [[3, 4]]).h ∧ (planeOf [[1, 2]]).w = (planeOf [[3]]).w) ∧
    ¬((0 : Int) = 0 ∧ (1 : Int) = 0) := by decide

theorem witness_ElementwisePrimitives :
    1 < (planeOf [[1, 2], [3, -4]]).h ∧ 1 < (planeOf [[1, 2], [3, -4]]).w ∧ (31 : Nat) ≤ 31 ∧
    (planeOf [[5, 6], [7, 8]]).h = (planeOf [[1, 2], [3, -4]]).h ∧
    (planeOf [[5, 6], [7, 8]]).w = (planeOf [[1, 2], [3, -4]]).w ∧ (0 : Int) ≤ 0 := by decide

/-- A stage command with every slot of the shape, and one with a slot of another shape among the others. -/
theorem witness_ShapeCheckComparesTheTag :
    isStageCommand .ccd = true ∧ full.engine = .idle ∧ full.cfg.swc.toNat < 2 ∧ full.dimsOK = true ∧
    after (fun t => t.engine.isBusy) (exec .ccd full) = some true ∧
    Slot.greenH ∈ checkedSlots .ccd ∧
    ({ full with mem := { full.mem with greenH := samples8 [[1, 2, 3, 4], [5, 6, 7, 8]] } } : State).mem.valid .greenH =
      true ∧
    ({ full with mem := { full.mem with greenH := samples8 [[1, 2, 3, 4], [5, 6, 7, 8]] } } : State).shapeOK .greenH =
      false ∧
    ∀ j ∈ checkedSlots .ccd, j ≠ .greenH →
      ({ full with mem := { full.mem with greenH := samples8 [[1, 2, 3, 4], [5, 6, 7, 8]] } } : State).shapeOK j =
        true := by decide

theorem witness_RenormTableHoldsWeightSums :
    (0 : Nat) ≤ 4 ∧ (4 : Nat) ≤ 4 ∧ (0 : Nat) ≤ 2 ∧ (2 : Nat) ≤ 2 ∧ (3 : Nat) ≤ 3 ∧ (3 : Nat) ≤ 4 := by decide

/-- The two ends and the middle of an axis of length 6, with samples in range. -/
theorem witness_EstimateIsTheRenormalisedTapSum :
    (0 : Nat) < 6 ∧ (5 : Nat) < 6 ∧ (2 ≤ 2 ∧ 2 + 3 ≤ 6) ∧ ∀ q, q < 6 → (0 : Int) ≤ 255 ∧ (255 : Int) ≤ 255 := by decide

theorem witness_FirFollowsTheTwoDirections :
    1 < mosaic44.h ∧ 2 < mosaic44.w ∧ isGreen .rggb 1 2 = true ∧ isGreen .rggb 1 1 = false ∧
    isGreen .grbg 0 3 = false := by decide

/-- A 2×2 plane of which all four samples are in range. -/
theorem samplesIn_2x2 {a b c d m : Int} (ha : 0 ≤ a ∧ a ≤ m) (hb : 0 ≤ b ∧ b ≤ m) (hc : 0 ≤ c ∧ c ≤ m)
    (hd : 0 ≤ d ∧ d ≤ m) : SamplesIn (planeOf [[a, b], [c, d]]) m := by
  intro r q hr hq
  have hr' : r = 0 ∨ r = 1 := by simp [planeOf] at hr; omega
  have hq' : q = 0 ∨ q = 1 := by simp [planeOf] at hq; omega
  rcases hr' with rfl | rfl <;> rcases hq' with rfl | rfl <;> assumption

theorem witness_FlatFieldIsReproduced :
    (0 : Int) ≤ 255 ∧ (255 : Int) ≤ 255 ∧ SamplesIn (planeOf [[0, 255], [30, 40]]) 255 :=
  ⟨by decide, by decide, samplesIn_2x2 (by decide) (by decide) (by decide) (by decide)⟩

/-- The last site of a 2×2 mosaic, which has no neighbour two columns on. -/
theorem witness_ClassifierInputsAreGradientDifferences :
    SamplesIn (planeOf [[10, 20], [30, 255]]) 255 ∧ SamplesIn (planeOf [[20, 20], [30, 0]]) 255 ∧
    SamplesIn (planeOf [[15, 20], [30, 35]]) 255 ∧ 1 < (planeOf [[10, 20], [30, 255]]).h ∧
    1 < (planeOf [[10, 20], [30, 255]]).w ∧
    (planeOf [[20, 20], [30, 0]]).h = (planeOf [[10, 20], [30, 255]]).h ∧
    (planeOf [[20, 20], [30, 0]]).w = (planeOf [[10, 20], [30, 255]]).w ∧
    (planeOf [[15, 20], [30, 35]]).h = (planeOf [[10, 20], [30, 255]]).h ∧
    (planeOf [[15, 20], [30, 35]]).w = (planeOf [[10, 20], [30, 255]]).w :=
  ⟨samplesIn_2x2 (by decide) (by decide) (by decide) (by decide),
    samplesIn_2x2 (by decide) (by decide) (by decide) (by decide),
    samplesIn_2x2 (by decide) (by decide) (by decide) (by decide), by decide, by decide, rfl, rfl, rfl, rfl⟩

theorem witness_SlidingAccumulatorIsTheWindowedSum :
    (0 : Int) ≤ 0 ∧ 1 < (flatPlane 2 2 0).h ∧ 1 < (flatPlane 2 2 0).w ∧
    ∀ r, r < (flatPlane 2 2 0).h → ∀ c, c < (flatPlane 2 2 0).w →
      -0 ≤ (flatPlane 2 2 0).sample r c ∧ (flatPlane 2 2 0).sample r c ≤ 0 := by decide

theorem witness_EdgeMosaicsGiveTheClassifierItsSign :
    (∀ n : Nat, (0 : Int) ≤ (if n < 4 then 20 else 220) ∧ (if n < 4 then 20 else 220 : Int) ≤ 255) ∧
    (5 : Nat) < 6 ∧ (7 : Nat) < 8 :=
  ⟨fun n => by split <;> decide, by decide, by decide⟩

/-- A red, a blue and both kinds of green site, the corners among them. -/
theorem witness_ReconstructionFollowsTheTwoPhases :
    mosaic44.h = (planeOf [[0, 0, 0, 0], [0, 0, 0, 0], [0, 0, 0, 0], [0, 0, 0, 0]]).h ∧
    mosaic44.w = (planeOf [[0, 0, 0, 0], [0, 0, 0, 0], [0, 0, 0, 0], [0, 0, 0, 0]]).w ∧ 3 < mosaic44.h ∧
    3 < mosaic44.w ∧ isRed .rggb 0 0 = true ∧ isBlue .rggb 3 3 = true ∧ isGreen .rggb 0 3 = true ∧ 0 % 2 = 0 ∧
    isGreen .rggb 3 0 = true ∧ 3 % 2 = 1 := by decide

theorem witness_ReconstructionStaysInRange :
    (0 : Int) ≤ 255 ∧ SamplesIn (planeOf [[0, 255], [30, 40]]) 255 :=
  ⟨by decide, samplesIn_2x2 (by decide) (by decide) (by decide) (by decide)⟩

theorem witness_FlatMosaicIsReproducedByThePipeline : (0 : Int) ≤ 255 ∧ (255 : Int) ≤ 255 := by decide

/-- Vector 2.4(b): the 10×10 patch, its site `(4, 4)` at distance 4 and `(2, 7)` at distance 2. -/
theorem witness_ConstantPatchIsExactInside :
    (0 : Int) ≤ 200 ∧ (200 : Int) ≤ 255 ∧ (0 : Int) ≤ 100 ∧ (100 : Int) ≤ 255 ∧ (0 : Int) ≤ 50 ∧ (50 : Int) ≤ 255 ∧
    Inside 10 10 4 4 4 ∧ Inside 10 10 2 2 7 := by
  unfold Inside
  decide

theorem witness_StepRunsTheDecodedCommand_idle :
    WritesNext (withInputs [store 0x0C 0x13000000] full) 0x0C 0x13000000 [] ∧
    (withInputs [store 0x0C 0x13000000] full).engine.isBusy = false ∧ decode 0x13000000 = .ok .rrb :=
  ⟨rfl, rfl, rfl⟩

/-- The four ways in which the engine's turn comes. -/
theorem witness_StepRunsTheDecodedCommand_busy :
    (inProgress .rrb .reconstruct full).engine.isBusy = true ∧
    decode (inProgress .rrb .reconstruct full).curCmd = .ok .rrb ∧
    (inProgress .rrb .reconstruct full).inputs = [] ∧
    (withInputs [.engineTurn] (inProgress .rrb .reconstruct full)).inputs = [.engineTurn] ∧
    IsOffset 0x3C ∧ WritesNext (withInputs [store 0x3C 1] (inProgress .rrb .reconstruct full)) 0x3C 1 [] ∧
    ReadsNext (withInputs [load 0x20] (inProgress .rrb .reconstruct full)) 0x20 [] :=
  ⟨rfl, rfl, rfl, rfl, ⟨by decide, rfl⟩, rfl, rfl⟩

theorem witness_FetchedWordRunsNext : (32 : Nat) ≤ 32 ∧ decodeTableWord 32 0x22330000 = some (.bmove .cls .cls) := by
  decide

/-- Idle states with no fault to report, and with one of each of the five causes. -/
theorem witness_AcceptsByItsChecks :
    full.engine = .idle ∧ reportedFault full .demosaic = none ∧ reportedFault full (.bcopy .cls .red) = none ∧
    reportedFault full (.refine 0) = some (.illCmd, 0x14000000) ∧
    reportedFault { full with cfg := { full.cfg with swc := 2 } } .mrg = some (.cfgErr, 4) ∧
    reportedFault State.reset .demosaic = some (.dimErr, 0) ∧
    reportedFault (withSlot 2 2 .mosaic (samples8 [[0, 0], [0, 0]])) .ccd = some (.noBuf, 1) ∧
    reportedFault { full with dim := { h := 4, w := 2 } } .igdH = some (.shape, 0) := by decide

theorem witness_IllegalWordsRaiseIllcmd :
    legalWord 0x22340000 = false ∧ legalWord 0 = false ∧ full.engine = .idle ∧
    WritesNext (withInputs [store 0x0C 0x22340000] full) 0x0C 0x22340000 [] ∧
    WritesNext (withInputs [store 0x0C 0] full) 0x0C 0 [] :=
  ⟨by decide, by decide, rfl, rfl, rfl⟩

theorem witness_RefineRaisesIllcmd : opField 0x14FFFFFF = 0x14 ∧ State.reset.engine = .idle := by decide

/-- Every stage command is ready in this state; `CFG.SWC` 1 is the other legal width. -/
theorem witness_StageReady :
    StageReady full [.mosaic] ∧ StageReady full [.mosaic, .greenV, .greenH] ∧
    StageReady full [.greenV, .greenH, .cls] ∧ StageReady full [.mosaic, .cls, .green] := by
  unfold StageReady
  decide

theorem witness_StageReady_16bit :
    StageReady { full with
      cfg := { full.cfg with swc := 1 }
      mem := { full.mem with mosaic := some { sw := .two, plane := planeOf [[65535, 0], [0, 65535]] } } } [.mosaic] := by
  unfold StageReady
  decide

/-- `BALLOC` of a sample slot, and of slot 3 with an illegal width code. -/
theorem witness_AllocAndFreeComplete :
    full.engine = .idle ∧ full.cfg.swc.toNat < 2 ∧ full.dimsOK = true ∧ Slot.isWide .cls = true ∧
    ({ full with cfg := { full.cfg with swc := 3 } } : State).dimsOK = true := by decide

/-- One pair of slots for each of the cases of `BCOPY`. -/
theorem witness_BcopyCompletes :
    full.engine = .idle ∧ full.cfg.swc.toNat < 2 ∧ full.mem.slot .cls = wide [[-10, -10], [-10, -10]] ∧
    full.mem.slot .blue = samples8 [[12, 22], [32, 40]] ∧ Slot.red ≠ .blue ∧ Slot.isWide .red = false ∧
    Slot.isWide .blue = false ∧ Slot.cls ≠ .blue ∧ Slot.isWide .cls = true := by decide

theorem witness_BmoveCompletes :
    full.engine = .idle ∧ full.mem.slot .cls = wide [[-10, -10], [-10, -10]] ∧
    full.mem.slot .blue = samples8 [[12, 22], [32, 40]] ∧ Slot.isWide .red = Slot.isWide .blue ∧ Slot.red ≠ .blue ∧
    Slot.isWide .cls ≠ Slot.isWide .blue := by decide

/-- Every command answers a next state somewhere, in each engine state that it has. -/
theorem witness_exec_next :
    after State.statusWord (exec .mrg full) = some 0x31 ∧
    after State.statusWord (exec .mrg (inProgress .mrg .merge full)) = some 2 ∧
    after State.statusWord (exec .mrg stuck) = some 0x304 := by decide +kernel

/-- Two busy engines that agree on the inputs of `IGD.H` and differ in another slot. -/
theorem witness_StageOutputsDependOnInputsAlone :
    isStageCommand .igdH = true ∧ (inProgress .igdH .interpolate full).engine = .busy (firstStage .igdH) ∧
    AgreeOn (checkedSlots .igdH) (inProgress .igdH .interpolate full)
      (inProgress .igdH .interpolate { full with mem := { full.mem with red := none } }) := by
  refine ⟨rfl, rfl, rfl, rfl, rfl, ?_⟩
  decide

theorem witness_AccessesAreHeldWhileBusy :
    (inProgress .igdV .interpolate full).engine.isBusy = true ∧ IsRegister 0x00 ∧ IsRegister 0x2C ∧
    WritesNext (withInputs [store 0x2C 7] (inProgress .igdV .interpolate full)) 0x2C 7 [] ∧
    ReadsNext (withInputs [load 0x20] (inProgress .igdV .interpolate full)) 0x20 [] ∧
    ReadsNext (withInputs [load 0x10] (inProgress .igdV .interpolate full)) 0x10 [] ∧ (0x10 : Nat) ≠ 0x20 ∧
    (withInputs [.hardReset] (inProgress .igdV .interpolate full)).inputs = [.hardReset] :=
  ⟨rfl, ⟨by decide, rfl⟩, ⟨by decide, rfl⟩, rfl, rfl, rfl, by decide, rfl⟩

theorem witness_ReadsReturnTheRegisters :
    IsOffset 0x3C ∧ (0x3C : Nat) ≠ 0x20 ∧ ReadsNext (withInputs [load 0x3C] full) 0x3C [] ∧
    stuck.engine = .faulted .dimErr 0x00030004 ∧ full.engine.isFaulted = false :=
  ⟨⟨by decide, rfl⟩, by decide, rfl, rfl, rfl⟩

theorem witness_WrittenRegistersReadBack :
    full.engine.isBusy = false ∧ WritesNext (withInputs [store 0x04 0xFFFFFFFF] full) 0x04 0xFFFFFFFF [] ∧
    WritesNext (withInputs [store 0x08 0xFFFFFFFF] full) 0x08 0xFFFFFFFF [] ∧
    WritesNext (withInputs [store 0x14 0x7FFFFFFF] full) 0x14 0x7FFFFFFF [] ∧
    BitVec.getLsbD (0x7FFFFFFF : Word) 31 = false ∧
    WritesNext (withInputs [store 0x14 0x80000000] full) 0x14 0x80000000 [] ∧
    BitVec.getLsbD (0x80000000 : Word) 31 = true ∧
    WritesNext (withInputs [store 0x18 0xFFFFFFFF] full) 0x18 0xFFFFFFFF [] ∧
    WritesNext (withInputs [store 0x1C 0xFFFFFFFF] full) 0x1C 0xFFFFFFFF [] ∧
    WritesNext (withInputs [store 0x10 0xFFFFFFFF] full) 0x10 0xFFFFFFFF [] ∧
    WritesNext (withInputs [store 0x2C 0xFFFFFFFF] full) 0x2C 0xFFFFFFFF [] ∧
    ReadsNext (withInputs [load 0x20] full) 0x20 [] ∧ 7 ≤ (BitVec.extractLsb' 0 4 (0xFFFFFFFF : Word)).toNat ∧
    (Cfg.ofWord 0).swc = 0 ∧ (Cfg.ofWord 2).swc = 1 ∧ needsWidth .mrg = true ∧ full.engine = .idle ∧
    2 ≤ (Cfg.ofWord 4).swc.toNat ∧ full.mem.bytes .green ≠ (Cfg.ofWord 2).sampleBytes :=
  ⟨rfl, rfl, rfl, rfl, by decide, rfl, by decide, rfl, rfl, rfl, rfl, rfl, by decide, by decide, by decide, rfl, rfl,
    by decide, by decide⟩

theorem witness_StatusIsWriteOneToClear :
    stuck.engine.isBusy = false ∧ WritesNext (withInputs [store 0x10 0xFFFFFFFF] stuck) 0x10 0xFFFFFFFF [] ∧
    WritesNext (withInputs [store 0x3C 5] stuck) 0x3C 5 [] ∧ WritesNext (withInputs [store 0x00 5] stuck) 0x00 5 [] :=
  ⟨rfl, rfl, rfl, rfl⟩

theorem witness_OnlyAlignedWordAccessesHaveAMeaning :
    (withInputs [.write .byte 63 1] full).inputs = [.write .byte 63 1] ∧
    (withInputs [.read .word 1] full).inputs = [.read .word 1] ∧ full.params.base ≤ 63 ∧
    63 < full.params.base + 64 ∧ AccessWidth.byte ≠ .word ∧ (1 - full.params.base) % 4 ≠ 0 := by decide

theorem witness_port_in_bounds :
    PortInBounds { full with bufPos := { row := 1, col := 1 } } .mosaic
      { sw := .one, plane := planeOf [[10, 20], [30, 40]] } ∧
    PortInBounds { full with bufSel := 3 } .cls { sw := .four, plane := planeOf [[-10, -10], [-10, -10]] } ∧
    full.mem.wf full.params = true ∧ full.engine.isBusy = false ∧ ReadsNext (withInputs [load 0x20] full) 0x20 [] ∧
    WritesNext (withInputs [store 0x20 0xFFFFFFFF] full) 0x20 0xFFFFFFFF [] := by
  unfold PortInBounds ReadsNext WritesNext
  decide

/-- The number 9 names no slot, and row 2 of a 2×2 slot is out of bounds. -/
theorem witness_port_out_of_bounds :
    (¬∃ k ras, PortInBounds { full with bufSel := 9 } k ras) ∧
    (¬∃ k ras, PortInBounds { full with bufPos := { row := 2, col := 0 } } k ras) := by
  constructor
  · rintro ⟨k, ras, h, -⟩
    exact absurd h (by simp [Slot.ofNum])
  · rintro ⟨k, ras, h, h2, h3, -⟩
    have hk : k = .mosaic := by simpa [Slot.ofNum, full, State.reset, State.resetWith, eq_comm] using h
    subst hk
    have hr : ras = { sw := .one, plane := planeOf [[10, 20], [30, 40]] } := by
      simpa [full, samples8, Memory.slot, eq_comm] using h2
    subst hr
    exact absurd h3 (by decide)

/-- The last column of a row, the last row of the field, and a slot selection without a slot. -/
theorem witness_PortTraversesRowMajor :
    Slot.ofNum full.bufSel = some .mosaic ∧
    full.mem.slot .mosaic = some { sw := .one, plane := planeOf [[10, 20], [30, 40]] } ∧
    (planeOf [[10, 20], [30, 40]]).h < 2 ^ 16 ∧ (planeOf [[10, 20], [30, 40]]).w < 2 ^ 16 ∧
    0 < (planeOf [[10, 20], [30, 40]]).w ∧ 4 ≤ (planeOf [[10, 20], [30, 40]]).h * (planeOf [[10, 20], [30, 40]]).w ∧
    full.bufPos = { row := 0, col := 0 } ∧ full.bufPos.col.toNat + 1 < (planeOf [[10, 20], [30, 40]]).w ∧
    (planeOf [[10, 20], [30, 40]]).w ≤ (1 : Coord).toNat + 1 ∧ Slot.ofNum 9 = none := by decide

theorem witness_resets :
    (withInputs [.hardReset] stuck).inputs = [.hardReset] ∧
    WritesNext (withInputs [store 0x14 0x80000000] stuck) 0x14 0x80000000 [] ∧
    BitVec.getLsbD (0x80000000 : Word) 31 = true ∧ stuck.engine.isBusy = false ∧
    (inProgress .igdV .interpolate full).engine.isBusy = true :=
  ⟨rfl, rfl, by decide, rfl, rfl⟩

/-- States of the block: idle, faulted, and busy at the first and at a later stage. -/
theorem witness_Inv :
    full.Inv ∧ stuck.Inv ∧ (inProgress .igdV .interpolate full).Inv ∧ (inProgress .demosaic .merge full).Inv ∧
    ({ full with done := true } : State).Inv := by
  unfold State.Inv
  decide +kernel

/-- A `DEMOSAIC` at the merge without the mosaic is no state of the block (rule R231). -/
theorem test_Inv_keeps_the_mosaic_of_demosaic :
    ¬(inProgress .demosaic .merge { full with mem := { full.mem with mosaic := none } }).Inv ∧
    ¬(inProgress .demosaic .merge { full with mem := { full.mem with mosaic := samples8 [[1, 2, 3, 4], [5, 6, 7, 8]] } }).Inv := by
  unfold State.Inv
  decide +kernel

/-- `DONE` cleared by a `STATUS` write, by the next command and by reset, and `FAULT` by reset. -/
theorem witness_InterruptLineFollowsItsFourBits :
    after State.done (step (withInputs [store 0x10 2] { full with done := true })) = some false ∧
    after State.done (step (withInputs [store 0x0C 0x1F000000] { full with done := true })) = some false ∧
    after State.done (step (withInputs [.hardReset] { full with done := true })) = some false ∧
    after (fun t => t.engine.isFaulted) (step (withInputs [store 0x14 0x80000000] stuck)) = some false ∧
    stuck.engine.isFaulted = true := by decide

/-- A held write, and the same write performed once the engine is idle. -/
theorem witness_held_write_is_performed :
    after (fun t => (t.engine.isBusy, after (fun u => (u.cfg.word, u.inputs)) (step t)))
      (step (withInputs [store 0x04 1] (inProgress (.bfree .red) .bufferOp full))) = some (false, some (1, [])) := by
  decide

theorem witness_Params_wf :
    Params.default.wf = true ∧ Params.wf { base := 64, maxDim := 2, capPixels := 4 } = true := by decide

/-- A faulted state meets a command, an access that is no reset, and both resets. -/
theorem witness_FaultedIsLeftOnlyByReset :
    stuck.engine = .faulted .dimErr 0x00030004 ∧
    WritesNext (withInputs [store 0x0C 0x1F000000] stuck) 0x0C 0x1F000000 [] ∧
    ¬ResetNext (withInputs [store 0x0C 0x1F000000] stuck) ∧ ResetNext (withInputs [.hardReset] stuck) ∧
    ResetNext (withInputs [store 0x14 0x80000000] stuck) := by
  refine ⟨rfl, rfl, ?_, Or.inl ⟨[], rfl⟩, Or.inr ⟨rfl, 0x80000000, [], rfl, by decide⟩⟩
  rintro (⟨rest, h⟩ | ⟨-, d, rest, h, -⟩)
  · exact absurd h (by simp [withInputs, store])
  · exact absurd h (by simp [WritesNext, withInputs, store, stuck, full, State.reset, State.resetWith, Params.default])

/-- A step from each engine state to each next one: accepted, moved on, finished, reset. -/
theorem witness_EngineTransitions :
    after State.engine (step (withInputs [store 0x0C 0x1F000000] full)) = some (.busy .interpolate) ∧
    after State.engine (step (inProgress .demosaic .merge full)) = some (.busy .reconstruct) ∧
    after State.engine (step (inProgress .igdV .interpolate full)) = some .idle ∧
    after State.engine (step (withInputs [.hardReset] stuck)) = some .idle := by decide +kernel

/-- A slot changes by a command in progress, by the port, and by reset. -/
theorem witness_SlotsKeepTheirContent :
    (after (fun t => t.mem.slot .red) (step (inProgress (.bfree .red) .bufferOp full)) = some none ∧
      full.mem.slot .red ≠ none) ∧
    after (rowsOf .mosaic) (step (withInputs [store 0x20 9] full)) = some [[9, 20], [30, 40]] ∧
    after (fun t => t.mem.slot .red) (step (withInputs [.hardReset] full)) = some none := by decide

theorem witness_EveryCommandFinishes :
    (inProgress .demosaic .interpolate full).Inv ∧ (inProgress .demosaic .interpolate full).engine.isBusy = true ∧
    (inProgress .demosaic .interpolate full).inputs = [] := by
  unfold State.Inv
  decide +kernel

end Sys2Proof.Machine
end

/-!
## Scope: sites, dimensions, and the capability flags (00_scope.md)
-/

namespace Sys2Proof

/-- The constraints on the parameters, as a proposition (rules R7, R62). -/
theorem Params.wf_iff {p : Params} :
    p.wf = true ↔
      p.base % 64 = 0 ∧ p.maxDim % 2 = 0 ∧ 2 ≤ p.maxDim ∧ p.maxDim ≤ 65534 ∧ 4 ≤ p.capPixels := by
  simp [Params.wf, and_assoc]

end Sys2Proof

namespace Sys2Proof.Machine

/-! ### Sites and dimensions -/

/-- Settles O10. -/
theorem sitesFollowThePattern : Obligations.SitesFollowThePattern := by
  intro r c
  refine ⟨by simp [isGreen], by simp [isGreen], by simp [isRedRow], by simp [isBlueRow], fun p => ⟨?_, ?_⟩⟩
  · simp [isRed, isRedRow]
  · simp [isBlue, isBlueRow]

/-- Settles O11: `dimOK_iff` at `DIM`, and `Params.wf_iff`. -/
theorem dimensionsAreLegalInTheirBounds : Obligations.DimensionsAreLegalInTheirBounds :=
  ⟨fun _ => dimOK_iff, fun _ => Params.wf_iff⟩

/-! ### What the commands leave of the slots -/

/-- Acceptance writes no slot (rules R230, R272). -/
@[simp] theorem State.accept_mem (s : State) (i : Instr) (first : Stage) : (s.accept i first).mem = s.mem := by
  obtain ⟨-, h⟩ | ⟨cause, info, -, h⟩ := s.accept_cases i first <;> simp [h]

/-- What `DEMOSAIC` does, when it gives a next state (rules R231, R233, R273). -/
theorem execDemosaic_cases {s t : State} (h : execDemosaic s = .next t) :
    (s.engine = .idle ∧ t = s.accept .demosaic .interpolate) ∨
    (s.engine = .busy .interpolate ∧ t = (interpolateVH s).start .classify) ∨
    (s.engine = .busy .classify ∧ t = (classifyStage s).start .merge) ∨
    (s.engine = .busy .merge ∧ t = (mergeStage s).start .reconstruct) ∨
    (s.engine = .busy .reconstruct ∧ t = (reconstructStage s).finish) ∨
    (∃ cause info, s.engine = .faulted cause info ∧ t = s) := by
  unfold execDemosaic at h
  split at h <;> cases h <;> simp [*]

/-! ### The capability flags -/

@[simp] theorem withCapabilities_engine (s : State) (par vec : Bool) :
    (withCapabilities s par vec).engine = s.engine := rfl

@[simp] theorem withCapabilities_mem (s : State) (par vec : Bool) : (withCapabilities s par vec).mem = s.mem := rfl

/-- A stage's effect neither reads nor writes the capability flags. -/
def IgnoresCapabilities (work : State → State) : Prop :=
  ∀ (s : State) (par vec : Bool), work (withCapabilities s par vec) = withCapabilities (work s) par vec

/-- Whenever the meaning answers a next state, it answers one with the same slots at any other values of the capability
flags. -/
def SlotsIgnoreCapabilities (meaning : State → Host.Outcome State Fault Refusal) : Prop :=
  ∀ (s t : State) (par vec : Bool), meaning s = .next t →
    ∃ u, meaning (withCapabilities s par vec) = .next u ∧ u.mem = t.mem

theorem IgnoresCapabilities.comp {f g : State → State} (hf : IgnoresCapabilities f) (hg : IgnoresCapabilities g) :
    IgnoresCapabilities (fun s => f (g s)) := fun s par vec => by
  simp only [hg s par vec, hf (g s) par vec]

theorem IgnoresCapabilities.mem {work : State → State} (h : IgnoresCapabilities work) (s : State) (par vec : Bool) :
    (work (withCapabilities s par vec)).mem = (work s).mem := by
  rw [h s par vec, withCapabilities_mem]

/-- A slot write ignores the flags when its content does. -/
theorem ignoresCapabilities_setSlot {k : Slot} {content : State → Option Raster}
    (h : ∀ s par vec, content (withCapabilities s par vec) = content s) :
    IgnoresCapabilities (fun s => s.setSlot k (content s)) := fun s par vec => by
  simp only [h s par vec]; rfl

/-- The width tag comes from `CFG.SWC` alone (rules R25, R32), so a construction ignores the flags when its plane
does. -/
theorem ignoresCapabilities_construct {k : Slot} {result : State → Plane}
    (h : ∀ s par vec, result (withCapabilities s par vec) = result s) :
    IgnoresCapabilities (fun s => s.construct k (result s)) :=
  ignoresCapabilities_setSlot fun s par vec => by simp only [h s par vec]; rfl

theorem interpolateV_ignoresCapabilities : IgnoresCapabilities interpolateV :=
  ignoresCapabilities_construct fun _ _ _ => rfl

theorem interpolateH_ignoresCapabilities : IgnoresCapabilities interpolateH :=
  ignoresCapabilities_construct fun _ _ _ => rfl

theorem interpolateVH_ignoresCapabilities : IgnoresCapabilities interpolateVH :=
  interpolateH_ignoresCapabilities.comp interpolateV_ignoresCapabilities

theorem classifyStage_ignoresCapabilities : IgnoresCapabilities classifyStage :=
  ignoresCapabilities_construct fun _ _ _ => rfl

theorem mergeStage_ignoresCapabilities : IgnoresCapabilities mergeStage :=
  ignoresCapabilities_construct fun _ _ _ => rfl

theorem reconstructStage_ignoresCapabilities : IgnoresCapabilities reconstructStage := fun _ _ _ => rfl

theorem allocStage_ignoresCapabilities (d : Slot) : IgnoresCapabilities (allocStage d) :=
  ignoresCapabilities_construct fun _ _ _ => rfl

theorem copyStage_ignoresCapabilities (dst src : Slot) : IgnoresCapabilities (copyStage dst src) := fun s par vec => by
  unfold copyStage
  rw [withCapabilities_mem]
  split
  · rfl
  · cases s.mem.slot src <;> rfl

theorem moveStage_ignoresCapabilities (dst src : Slot) : IgnoresCapabilities (moveStage dst src) := fun s par vec => by
  unfold moveStage
  split <;> rfl

theorem freeStage_ignoresCapabilities (d : Slot) : IgnoresCapabilities (freeStage d) :=
  ignoresCapabilities_setSlot fun _ _ _ => rfl

/-- A command of one stage. Its acceptance may record the flags in the information of `CFGERR`, and writes no slot. -/
theorem slotsIgnoreCapabilities_runSingleStage {i : Instr} {stage : Stage} {work : State → State}
    (hwork : IgnoresCapabilities work) : SlotsIgnoreCapabilities (runSingleStage i stage work) := by
  intro s t par vec h
  obtain ⟨he, rfl⟩ | ⟨he, rfl⟩ | ⟨cause, info, he, rfl⟩ := runSingleStage_cases h
  · exact ⟨_, runSingleStage_idle he, by simp⟩
  · exact ⟨_, runSingleStage_busy he, by simp [hwork.mem]⟩
  · exact ⟨_, runSingleStage_faulted he, rfl⟩

theorem slotsIgnoreCapabilities_execDemosaic : SlotsIgnoreCapabilities execDemosaic := by
  intro s t par vec h
  obtain ⟨he, rfl⟩ | ⟨he, rfl⟩ | ⟨he, rfl⟩ | ⟨he, rfl⟩ | ⟨he, rfl⟩ | ⟨cause, info, he, rfl⟩ := execDemosaic_cases h
  · simp [execDemosaic, he]
  · simp [execDemosaic, he, interpolateVH_ignoresCapabilities.mem]
  · simp [execDemosaic, he, classifyStage_ignoresCapabilities.mem]
  · simp [execDemosaic, he, mergeStage_ignoresCapabilities.mem]
  · simp [execDemosaic, he, reconstructStage_ignoresCapabilities.mem]
  · simp [execDemosaic, he]

theorem slotsIgnoreCapabilities_execRefine (payload : BitVec 24) : SlotsIgnoreCapabilities (execRefine payload) := by
  intro s t par vec h
  unfold execRefine at h ⊢
  rw [withCapabilities_engine]
  split at h <;> cases h <;> simp

/-- Settles O40: every stage's effect commutes with setting the flags, and acceptance writes no slot. -/
theorem capabilityFlagsChangeNoSlot : Obligations.CapabilityFlagsChangeNoSlot := by
  intro i
  change SlotsIgnoreCapabilities (exec i)
  cases i with
  | igdH => exact slotsIgnoreCapabilities_runSingleStage interpolateH_ignoresCapabilities
  | igdV => exact slotsIgnoreCapabilities_runSingleStage interpolateV_ignoresCapabilities
  | igdVH => exact slotsIgnoreCapabilities_runSingleStage interpolateVH_ignoresCapabilities
  | ccd => exact slotsIgnoreCapabilities_runSingleStage classifyStage_ignoresCapabilities
  | mrg => exact slotsIgnoreCapabilities_runSingleStage mergeStage_ignoresCapabilities
  | rrb => exact slotsIgnoreCapabilities_runSingleStage reconstructStage_ignoresCapabilities
  | demosaic => exact slotsIgnoreCapabilities_execDemosaic
  | balloc d => exact slotsIgnoreCapabilities_runSingleStage (allocStage_ignoresCapabilities d)
  | bcopy dst src => exact slotsIgnoreCapabilities_runSingleStage (copyStage_ignoresCapabilities dst src)
  | bmove dst src => exact slotsIgnoreCapabilities_runSingleStage (moveStage_ignoresCapabilities dst src)
  | bfree d => exact slotsIgnoreCapabilities_runSingleStage (freeStage_ignoresCapabilities d)
  | refine payload => exact slotsIgnoreCapabilities_execRefine payload

end Sys2Proof.Machine

/-!
## The register interface and the buffer port (20_memory.md)
-/

namespace Sys2Proof.Machine

/-! ### The next entry of the schedule -/

theorem IsRegister.isOffset {off : Nat} (h : IsRegister off) : IsOffset off := ⟨Nat.lt_trans h.1 (by decide), h.2⟩

/-- `CMD` is a register of the window (rule R30). -/
theorem isOffset_cmd : IsOffset 0x0C := by simp [IsOffset]

/-- `BUF_DATA` is a register of the window (rule R30). -/
theorem isOffset_bufData : IsOffset 0x20 := by simp [IsOffset]

section
variable {s : State} {rest : List HostEvent} {off : Nat} {d : Word}

theorem State.dropInput_of_inputs {e : HostEvent} (h : s.inputs = e :: rest) :
    s.dropInput = { s with inputs := rest } := by
  simp [State.dropInput, h]

theorem step_of_inputs {e : HostEvent} (h : s.inputs = e :: rest) : step s = hostStep e s := by
  simp [step, agentStep, h]

/-- With no access left a busy engine takes its step (rule R312). -/
theorem step_of_noInputs (h : s.inputs = []) (hb : s.engine.isBusy = true) : step s = engineStep s := by
  simp [step, agentStep, h, hb]

theorem step_of_writesNext (hoff : IsOffset off) (h : WritesNext s off d rest) : step s = hostWrite off d s := by
  rw [step_of_inputs h, hostStep, accessOffset_of_offset _ hoff.1 hoff.2]

theorem step_of_readsNext (hoff : IsOffset off) (h : ReadsNext s off rest) : step s = hostRead off s := by
  rw [step_of_inputs h, hostStep, accessOffset_of_offset _ hoff.1 hoff.2]

/-- A write is held while the engine is busy (rule R68). -/
theorem step_of_heldWrite (hoff : IsOffset off) (h : WritesNext s off d rest) (hb : s.engine.isBusy = true) :
    step s = engineStep s := by
  rw [step_of_writesNext hoff h, hostWrite, if_pos hb]

/-- A write is performed when the engine is not busy. -/
theorem step_of_performedWrite (hoff : IsOffset off) (h : WritesNext s off d rest) (hb : s.engine.isBusy = false) :
    step s = writeRegister off d { s with inputs := rest } := by
  rw [step_of_writesNext hoff h, hostWrite, if_neg (by simp [hb]), State.dropInput_of_inputs h]

/-- A read of `BUF_DATA` is held while the engine is busy (rule R68). -/
theorem step_of_heldRead (h : ReadsNext s 0x20 rest) (hb : s.engine.isBusy = true) : step s = engineStep s := by
  rw [step_of_readsNext isOffset_bufData h, hostRead, if_pos (by simp [hb])]

/-- A read that is not held completes (rule R68). -/
theorem step_of_completedRead (hoff : IsOffset off) (h : ReadsNext s off rest)
    (hfree : s.engine.isBusy = true → off ≠ 0x20) : step s = .next (readRegister off { s with inputs := rest }) := by
  rw [step_of_readsNext hoff h, hostRead, if_neg (by simpa using hfree), State.dropInput_of_inputs h]

end

/-- A read of a register other than `BUF_DATA` only returns its word (rule R69). -/
theorem readRegister_of_ne {off : Nat} (h : off ≠ 0x20) (s : State) :
    readRegister off s = { s with readData := some (readWord off s) } := by
  rw [readRegister, if_neg h]

/-- What a read returns does not depend on the accesses to come. -/
@[simp] theorem readWord_inputs (off : Nat) (s : State) (rest : List HostEvent) :
    readWord off { s with inputs := rest } = readWord off s := rfl

/-- An access to the window that is no aligned word has no offset (rule R61). -/
theorem accessOffset_of_notAligned {p : Params} {width : AccessWidth} {addr : Nat} (hlo : p.base ≤ addr)
    (hhi : addr < p.base + 64) (h : width ≠ .word ∨ (addr - p.base) % 4 ≠ 0) :
    accessOffset p width addr = .error .notAnAlignedWord := by
  have hno : ¬(width = .word ∧ (addr - p.base) % 4 = 0) := fun ⟨hw, h4⟩ => h.elim (absurd hw) (absurd h4)
  rw [accessOffset, if_neg (by omega), if_neg hno]

/-- Settles O45. -/
theorem onlyAlignedWordAccessesHaveAMeaning : Obligations.OnlyAlignedWordAccessesHaveAMeaning := by
  intro s width addr d rest hnext hlo hhi hbad
  have hoff := accessOffset_of_notAligned hlo hhi hbad
  obtain h | h := hnext <;> rw [step_of_inputs h, hostStep, hoff]

/-! ### The decoded command and the accesses held while it runs -/

theorem engineStep_of_decode {s : State} {i : Instr} (h : decode s.curCmd = .ok i) : engineStep s = exec i s := by
  rw [engineStep, h]

theorem writeCommand_of_decode {x : Word} {i : Instr} (h : decode x = .ok i) (s : State) :
    writeCommand x s = exec i s := by
  rw [writeCommand, h]

/-- Settles O25: the four ways the engine's turn comes. -/
theorem stepRunsTheDecodedCommand : Obligations.StepRunsTheDecodedCommand := by
  refine ⟨fun s x i rest hnext hb hx => ?_, fun s i hb hi => ⟨fun hnil => ?_, fun rest hturn => ?_, ?_, ?_⟩⟩
  · rw [step_of_performedWrite isOffset_cmd hnext hb]
    exact writeCommand_of_decode hx _
  · rw [step_of_noInputs hnil hb, engineStep_of_decode hi]
  · rw [step_of_inputs hturn, hostStep, if_pos hb, State.dropInput_of_inputs hturn]
    exact engineStep_of_decode hi
  · intro off d rest hoff hnext
    rw [step_of_heldWrite hoff hnext hb, engineStep_of_decode hi]
  · intro rest hnext
    rw [step_of_heldRead hnext hb, engineStep_of_decode hi]

/-- A stage's effect is on the slots alone. -/
def WritesOnlySlots (work : State → State) : Prop :=
  ∀ s, work s = { s with mem := (work s).mem }

/-- A meaning changes nothing but the slots, `ES`, `DONE` and `CUR_CMD` (rules R230, R233, R272). -/
def CommandFrame (meaning : State → Host.Outcome State Fault Refusal) : Prop :=
  ∀ s t, meaning s = .next t → t = { s with mem := t.mem, engine := t.engine, done := t.done, curCmd := t.curCmd }

theorem copyStage_writesOnlySlots (dst src : Slot) : WritesOnlySlots (copyStage dst src) := fun s => by
  unfold copyStage
  split
  · rfl
  · cases s.mem.slot src <;> rfl

theorem moveStage_writesOnlySlots (dst src : Slot) : WritesOnlySlots (moveStage dst src) := fun s => by
  unfold moveStage
  split <;> rfl

/-- Acceptance changes `CUR_CMD`, `DONE` and `ES` (rules R230, R272). -/
theorem State.accept_frame (s : State) (i : Instr) (first : Stage) :
    s.accept i first = { s with engine := (s.accept i first).engine, done := false, curCmd := encode i } := by
  obtain ⟨-, h⟩ | ⟨cause, info, -, h⟩ := s.accept_cases i first <;> rw [h] <;> rfl

theorem commandFrame_runSingleStage {i : Instr} {stage : Stage} {work : State → State} (hwork : WritesOnlySlots work) :
    CommandFrame (runSingleStage i stage work) := by
  intro s t h
  obtain ⟨-, rfl⟩ | ⟨-, rfl⟩ | ⟨cause, info, -, rfl⟩ := runSingleStage_cases h
  · rw [State.accept_frame]
  · rw [hwork s]; rfl
  · rfl

theorem commandFrame_execDemosaic : CommandFrame execDemosaic := by
  intro s t h
  obtain ⟨-, rfl⟩ | ⟨-, rfl⟩ | ⟨-, rfl⟩ | ⟨-, rfl⟩ | ⟨-, rfl⟩ | ⟨cause, info, -, rfl⟩ := execDemosaic_cases h
  · rw [State.accept_frame]
  all_goals rfl

theorem commandFrame_execRefine (payload : BitVec 24) : CommandFrame (execRefine payload) := by
  intro s t h
  unfold execRefine at h
  split at h <;> cases h <;> rfl

theorem exec_frame (i : Instr) : CommandFrame (exec i) := by
  cases i with
  | igdH => exact commandFrame_runSingleStage fun _ => rfl
  | igdV => exact commandFrame_runSingleStage fun _ => rfl
  | igdVH => exact commandFrame_runSingleStage fun _ => rfl
  | ccd => exact commandFrame_runSingleStage fun _ => rfl
  | mrg => exact commandFrame_runSingleStage fun _ => rfl
  | rrb => exact commandFrame_runSingleStage fun _ => rfl
  | demosaic => exact commandFrame_execDemosaic
  | balloc d => exact commandFrame_runSingleStage fun _ => rfl
  | bcopy dst src => exact commandFrame_runSingleStage (copyStage_writesOnlySlots dst src)
  | bmove dst src => exact commandFrame_runSingleStage (moveStage_writesOnlySlots dst src)
  | bfree d => exact commandFrame_runSingleStage fun _ => rfl
  | refine payload => exact commandFrame_execRefine payload

theorem engineStep_frame : CommandFrame engineStep := by
  intro s t h
  unfold engineStep at h
  split at h
  · exact exec_frame _ s t h
  · cases h

/-- The engine's step keeps what is outside the block: the accesses to come, the word last read, the parameters. -/
theorem engineStep_keeps_host {s t : State} (h : engineStep s = .next t) :
    t.inputs = s.inputs ∧ t.readData = s.readData ∧ t.params = s.params := by
  rw [engineStep_frame s t h]
  exact ⟨rfl, rfl, rfl⟩

/-- Settles O41: the engine's step keeps the held access at the head of the schedule. -/
theorem accessesAreHeldWhileBusy : Obligations.AccessesAreHeldWhileBusy := by
  intro s rest hb
  refine ⟨fun off d hoff hnext => ?_, fun hnext => ?_, fun off hoff hne hnext => ?_, fun hnext => ?_⟩
  · have hheld := step_of_heldWrite hoff.isOffset hnext hb
    refine ⟨hheld, fun t ht => ?_⟩
    obtain ⟨hin, hrd, hp⟩ := engineStep_keeps_host (hheld ▸ ht)
    have hnext' : WritesNext t off d rest := by rw [WritesNext, hin, hp]; exact hnext
    exact ⟨hin, hrd, step_of_performedWrite hoff.isOffset hnext'⟩
  · have hheld := step_of_heldRead hnext hb
    refine ⟨hheld, fun t ht => ?_⟩
    obtain ⟨hin, hrd, hp⟩ := engineStep_keeps_host (hheld ▸ ht)
    have hnext' : ReadsNext t 0x20 rest := by rw [ReadsNext, hin, hp]; exact hnext
    exact ⟨hin, hrd, fun hidle => step_of_completedRead isOffset_bufData hnext' (by simp [hidle])⟩
  · rw [step_of_completedRead hoff.isOffset hnext fun _ => hne, readRegister_of_ne hne, readWord_inputs]
  · rw [step_of_inputs hnext, hostStep, State.dropInput_of_inputs hnext]
    rfl

/-! ### The buffer port -/

/-- The port reaches a sample exactly when the position is in bounds of a selected slot (rules R63, R64). -/
theorem portTarget_eq_some_iff {s : State} {k : Slot} {ras : Raster} :
    s.portTarget = some (k, ras) ↔ PortInBounds s k ras := by
  refine ⟨State.portTarget_eq_some, fun ⟨hk, hm, hr, hc⟩ => ?_⟩
  simp [State.portTarget, hk, hm, hr, hc]

theorem portTarget_eq_none {s : State} (h : ¬∃ k ras, PortInBounds s k ras) : s.portTarget = none := by
  cases ht : s.portTarget with
  | none => rfl
  | some kr => exact absurd ⟨kr.1, kr.2, portTarget_eq_some_iff.mp ht⟩ h

section
variable {s : State} {k : Slot} {ras : Raster}

theorem PortInBounds.portWord (h : PortInBounds s k ras) :
    s.portWord = sampleToWord (ras.plane.sample s.bufPos.row.toNat s.bufPos.col.toNat) := by
  rw [State.portWord, portTarget_eq_some_iff.mpr h]

theorem PortInBounds.portGet (h : PortInBounds s k ras) : s.portGet = { s with bufPos := s.advancePos } := by
  simp [State.portGet, portTarget_eq_some_iff.mpr h]

theorem PortInBounds.portSet (h : PortInBounds s k ras) (d : Word) :
    s.portSet d = { s with
      bufPos := s.advancePos
      mem := s.mem.setSlot k (some ⟨ras.sw, ras.plane.setSample s.bufPos.row.toNat s.bufPos.col.toNat
        (wordToSample k ras.sw d)⟩) } := by
  rw [State.portSet, portTarget_eq_some_iff.mpr h]
  rfl

/-- The sample the port reaches is in the range of its slot (rule R22). -/
theorem PortInBounds.sample_inRange (h : PortInBounds s k ras) (hwf : s.mem.wf s.params = true) :
    inRange k ras.sw (ras.plane.sample s.bufPos.row.toNat s.bufPos.col.toNat) = true := by
  obtain ⟨-, hm, hr, hc⟩ := h
  obtain ⟨-, -, hshape, hall⟩ := Raster.wf_iff.mp (Memory.raster_wf hwf hm)
  exact Plane.sample_of_allSamples hshape hall hr hc

end

/-- The port returns a wide sample in two's complement (rule R63). -/
theorem sampleToWord_toNat (v : Int) : ((sampleToWord v).toNat : Int) = v % 2 ^ 32 := by
  rw [sampleToWord, BitVec.toNat_ofInt]
  omega

theorem SampleBytes.maxSample_lt (sw : SampleBytes) : sw.maxSample < 2 ^ 32 := by
  cases sw <;> decide

/-- The port returns an unsigned sample zero-extended (rule R63). -/
theorem sampleToWord_toNat_of_inRange {k : Slot} {sw : SampleBytes} {v : Int} (hk : k.isWide = false)
    (h : inRange k sw v = true) : ((sampleToWord v).toNat : Int) = v := by
  have hmax := sw.maxSample_lt
  simp only [inRange, hk, Bool.false_eq_true, if_false, Bool.and_eq_true, decide_eq_true_eq] at h
  rw [sampleToWord_toNat]
  omega

/-- A read of `BUF_DATA` that is not held: the port's word and the state after it (rule R63). -/
theorem step_of_portRead {s : State} {rest : List HostEvent} (h : ReadsNext s 0x20 rest)
    (hb : s.engine.isBusy = false) :
    step s = .next { s.portGet with inputs := rest, readData := some s.portWord } := by
  rw [step_of_completedRead isOffset_bufData h (by simp [hb])]
  rfl

/-- The port's write does not depend on the accesses to come. -/
theorem State.portSet_inputs (s : State) (d : Word) (rest : List HostEvent) :
    State.portSet { s with inputs := rest } d = { s.portSet d with inputs := rest } := by
  have ht : State.portTarget { s with inputs := rest } = s.portTarget := rfl
  rw [State.portSet, State.portSet, ht]
  cases s.portTarget <;> rfl

/-- A write of `BUF_DATA` that is not held (rule R64). -/
theorem step_of_portWrite {s : State} {d : Word} {rest : List HostEvent} (h : WritesNext s 0x20 d rest)
    (hb : s.engine.isBusy = false) : step s = .next { s.portSet d with inputs := rest } := by
  rw [step_of_performedWrite isOffset_bufData h hb]
  exact congrArg Host.Outcome.next (State.portSet_inputs s d rest)

/-- Settles O46: the range of the slot makes the returned word the sample. -/
theorem portReadReturnsTheSample : Obligations.PortReadReturnsTheSample := by
  intro s rest hb hnext
  rw [step_of_portRead hnext hb]
  refine ⟨fun k ras hwf hin => ⟨s.portWord, by rw [hin.portGet], fun hk => ?_, fun _ => ?_⟩, fun hout => ?_⟩
  · rw [hin.portWord, sampleToWord_toNat_of_inRange hk (hin.sample_inRange hwf)]
  · rw [hin.portWord, sampleToWord_toNat]
  · simp [State.portGet, State.portWord, portTarget_eq_none hout]

/-- Settles O47: the plane written is the slot's with one sample replaced. -/
theorem portWriteSetsTheSample : Obligations.PortWriteSetsTheSample := by
  intro s d rest hb hnext
  rw [step_of_portWrite hnext hb]
  refine ⟨fun k ras hwf hin => ?_, fun hout => ?_⟩
  · obtain ⟨-, hm, hr, hc⟩ := id hin
    obtain ⟨-, -, hshape, -⟩ := Raster.wf_iff.mp (Memory.raster_wf hwf hm)
    exact ⟨ras.plane.setSample s.bufPos.row.toNat s.bufPos.col.toNat (wordToSample k ras.sw d), by rw [hin.portSet],
      rfl, rfl, Plane.sample_setSample_same hshape hr hc _, fun r c hne => Plane.sample_setSample_other hne _⟩
  · simp [State.portSet, portTarget_eq_none hout]

/-! ### The order in which the port traverses a slot -/

section
variable {s : State} {k : Slot} {ras : Raster}

/-- The post-increment within a row (rule R65). -/
theorem advancePos_in_row (hk : Slot.ofNum s.bufSel = some k) (hm : s.mem.slot k = some ras)
    (h : s.bufPos.col.toNat + 1 < ras.plane.w) :
    s.advancePos = { row := s.bufPos.row, col := s.bufPos.col + 1 } := by
  simp [State.advancePos, hk, hm, h]

/-- The post-increment at the end of a row (rule R65). -/
theorem advancePos_at_row_end (hk : Slot.ofNum s.bufSel = some k) (hm : s.mem.slot k = some ras)
    (h : ras.plane.w ≤ s.bufPos.col.toNat + 1) : s.advancePos = { row := s.bufPos.row + 1, col := 0 } := by
  simp [State.advancePos, hk, hm, Nat.not_lt.mpr h]

/-- Without a valid slot selected the position stays (rule R65). -/
theorem advancePos_without_slot (h : ¬∃ k ras, Slot.ofNum s.bufSel = some k ∧ s.mem.slot k = some ras) :
    s.advancePos = s.bufPos := by
  unfold State.advancePos
  split
  · rfl
  · next k hk =>
    split
    · rfl
    · next ras hm => exact absurd ⟨k, ras, hk, hm⟩ h

end

/-- The position of sample `m` in row-major order in rows of `w` samples. -/
def rowMajorPos (w m : Nat) : BufPos :=
  { row := BitVec.ofNat 16 (m / w), col := BitVec.ofNat 16 (m % w) }

theorem rowMajorPos_col_toNat {w m : Nat} (hw : w < 2 ^ 16) (hpos : 0 < w) : (rowMajorPos w m).col.toNat = m % w := by
  have := Nat.mod_lt m hpos
  simp only [rowMajorPos, BitVec.toNat_ofNat]
  exact Nat.mod_eq_of_lt (by omega)

theorem rowMajorPos_row_toNat {h w m : Nat} (hh : h < 2 ^ 16) (hm : m < h * w) :
    (rowMajorPos w m).row.toNat = m / w := by
  have : m / w < h := Nat.div_lt_of_lt_mul (by rwa [Nat.mul_comm])
  simp only [rowMajorPos, BitVec.toNat_ofNat]
  exact Nat.mod_eq_of_lt (by omega)

/-- The state with `BUF_POS` at sample `m` in row-major order. -/
def State.atSample (s : State) (w m : Nat) : State := { s with bufPos := rowMajorPos w m }

/-- The sample after one within a row. -/
theorem succ_div_mod_in_row {w m : Nat} (h : m % w + 1 < w) : (m + 1) / w = m / w ∧ (m + 1) % w = m % w + 1 :=
  (Nat.div_mod_unique (by omega)).mpr ⟨by have := Nat.mod_add_div m w; omega, h⟩

/-- The sample after the last one of a row. -/
theorem succ_div_mod_at_row_end {w m : Nat} (hw : 0 < w) (h : m % w + 1 = w) :
    (m + 1) / w = m / w + 1 ∧ (m + 1) % w = 0 :=
  (Nat.div_mod_unique hw).mpr ⟨by have := Nat.mod_add_div m w; rw [Nat.mul_succ]; omega, hw⟩

section
variable {s : State} {k : Slot} {ras : Raster}

/-- A sample of the slot is in bounds of the port (rule R63). -/
theorem portInBounds_atSample (hk : Slot.ofNum s.bufSel = some k) (hm : s.mem.slot k = some ras)
    (hh : ras.plane.h < 2 ^ 16) (hw : ras.plane.w < 2 ^ 16) (hpos : 0 < ras.plane.w) {m : Nat}
    (hlt : m < ras.plane.h * ras.plane.w) : PortInBounds (s.atSample ras.plane.w m) k ras := by
  refine ⟨hk, hm, ?_, ?_⟩
  · rw [State.atSample, rowMajorPos_row_toNat hh hlt]
    exact Nat.div_lt_of_lt_mul (by rwa [Nat.mul_comm])
  · rw [State.atSample, rowMajorPos_col_toNat hw hpos]
    exact Nat.mod_lt m hpos

/-- The post-increment goes to the next sample in row-major order (rule R65). -/
theorem advancePos_atSample (hk : Slot.ofNum s.bufSel = some k) (hm : s.mem.slot k = some ras)
    (hw : ras.plane.w < 2 ^ 16) (hpos : 0 < ras.plane.w) (m : Nat) :
    (s.atSample ras.plane.w m).advancePos = rowMajorPos ras.plane.w (m + 1) := by
  have hcol : (s.atSample ras.plane.w m).bufPos.col.toNat = m % ras.plane.w := rowMajorPos_col_toNat hw hpos
  have hlt := Nat.mod_lt m hpos
  by_cases hrow : m % ras.plane.w + 1 < ras.plane.w
  · obtain ⟨hdiv, hmod⟩ := succ_div_mod_in_row hrow
    rw [advancePos_in_row (s := s.atSample ras.plane.w m) hk hm (by rwa [hcol])]
    simp [State.atSample, rowMajorPos, hdiv, hmod, BitVec.ofNat_add]
  · obtain ⟨hdiv, hmod⟩ := succ_div_mod_at_row_end hpos (by omega : m % ras.plane.w + 1 = ras.plane.w)
    rw [advancePos_at_row_end (s := s.atSample ras.plane.w m) hk hm (by omega)]
    simp [State.atSample, rowMajorPos, hdiv, hmod, BitVec.ofNat_add]

/-- Reads from sample `m` on deliver the samples in row-major order (rule R65). -/
theorem portReads_atSample (hk : Slot.ofNum s.bufSel = some k) (hm : s.mem.slot k = some ras)
    (hh : ras.plane.h < 2 ^ 16) (hw : ras.plane.w < 2 ^ 16) (hpos : 0 < ras.plane.w) (n m : Nat)
    (hn : m + n ≤ ras.plane.h * ras.plane.w) :
    portReads n (s.atSample ras.plane.w m) =
      ((List.range' m n).map fun j => sampleToWord (ras.plane.sample (j / ras.plane.w) (j % ras.plane.w)),
        s.atSample ras.plane.w (m + n)) := by
  induction n generalizing m with
  | zero => rfl
  | succ n ih =>
    have hlt : m < ras.plane.h * ras.plane.w := by omega
    have hin := portInBounds_atSample hk hm hh hw hpos hlt
    have hget : (s.atSample ras.plane.w m).portGet = s.atSample ras.plane.w (m + 1) := by
      rw [hin.portGet, advancePos_atSample hk hm hw hpos]; rfl
    have hword : (s.atSample ras.plane.w m).portWord =
        sampleToWord (ras.plane.sample (m / ras.plane.w) (m % ras.plane.w)) := by
      rw [hin.portWord, State.atSample, rowMajorPos_row_toNat hh hlt, rowMajorPos_col_toNat hw hpos]
    rw [portReads, hget, hword, ih (m + 1) (by omega), List.range'_succ, List.map_cons]
    rw [Nat.add_assoc, Nat.add_comm 1 n]

end

/-- Settles O48: by induction on the number of reads, from any sample on. -/
theorem portTraversesRowMajor : Obligations.PortTraversesRowMajor := by
  refine ⟨fun s k ras hk hm => ⟨advancePos_in_row hk hm, fun h => ?_⟩, fun s => advancePos_without_slot, ?_⟩
  · rw [advancePos_at_row_end hk hm h]
    congr 1
    exact BitVec.eq_of_toNat_eq (by simp)
  · intro s k ras n hk hm hh hw hpos hn hstart
    have h0 : s.atSample ras.plane.w 0 = s := by
      rw [State.atSample, rowMajorPos, Nat.zero_div, Nat.zero_mod]
      exact congrArg (fun pos => { s with bufPos := pos }) hstart.symm
    have h := portReads_atSample hk hm hh hw hpos n 0 (by omega)
    rwa [h0, Nat.zero_add, ← List.range_eq_range'] at h

end Sys2Proof.Machine

/-!
## The command encoding (30_encoding.md)
-/

namespace Sys2Proof

/-! ### The fields of a word -/

section
variable (op : BitVec 8) (dst src : BitVec 4)

@[simp] theorem dstField_formatB : dstField (formatB op dst src) = dst := by
  rw [dstField, formatB, BitVec.extractLsb'_append_eq_of_le (by decide),
    BitVec.extractLsb'_append_eq_of_le (by decide)]
  exact BitVec.extractLsb'_append_eq_right

@[simp] theorem srcField_formatB : srcField (formatB op dst src) = src := by
  rw [srcField, formatB, BitVec.extractLsb'_append_eq_of_le (by decide)]
  exact BitVec.extractLsb'_append_eq_right

@[simp] theorem low16_formatB : (formatB op dst src).extractLsb' 0 16 = 0 := BitVec.extractLsb'_append_eq_right

end

section
variable {x : Word} {op : BitVec 8}

/-- Bits 19:0 of a word are `SRC` and bits 15:0 (rule R92). -/
theorem low20_eq_append (x : Word) : x.extractLsb' 0 20 = srcField x ++ x.extractLsb' 0 16 :=
  (BitVec.extractLsb'_append_extractLsb'_eq_extractLsb' (start₁ := 0) (len₁ := 16) (len₂ := 4) rfl).symm

theorem low20_eq_zero_iff : x.extractLsb' 0 20 = 0 ↔ srcField x = 0 ∧ x.extractLsb' 0 16 = 0 := by
  rw [low20_eq_append]
  refine ⟨fun h => ⟨?_, ?_⟩, fun ⟨hsrc, hlow⟩ => by rw [hsrc, hlow]; rfl⟩
  · rw [← BitVec.extractLsb'_append_eq_left (a := srcField x), h]; rfl
  · rw [← BitVec.extractLsb'_append_eq_right (a := srcField x) (b := x.extractLsb' 0 16), h]; rfl

/-- A word with bits 15:0 zero is of format B (rule R92). -/
theorem formatB_fields (hlow : x.extractLsb' 0 16 = 0) : formatB (opField x) (dstField x) (srcField x) = x := by
  conv => rhs; rw [word_eq_formatB_fields x, hlow]
  rfl

/-- The mask of `BCOPY` and `BMOVE` keeps `OP` and bits 15:0 (rule R96). -/
theorem fields_of_mask_dstSrc (h : x &&& 0xFF00FFFF = formatB op 0 0) : opField x = op ∧ x.extractLsb' 0 16 = 0 := by
  have hop := congrArg opField h
  have hlow := congrArg (BitVec.extractLsb' 0 16) h
  rw [opField_formatB, opField, BitVec.extractLsb'_and] at hop
  rw [low16_formatB, BitVec.extractLsb'_and] at hlow
  exact ⟨BitVec.and_allOnes.symm.trans hop, BitVec.and_allOnes.symm.trans hlow⟩

/-- The mask of `BALLOC` and `BFREE` keeps `OP` and bits 19:0 (rule R96). -/
theorem fields_of_mask_dst (h : x &&& 0xFF0FFFFF = formatB op 0 0) : opField x = op ∧ x.extractLsb' 0 20 = 0 := by
  have hop := congrArg opField h
  have hlow := congrArg (BitVec.extractLsb' 0 20) h
  rw [opField_formatB, opField, BitVec.extractLsb'_and] at hop
  rw [low20_eq_zero_iff.mpr ⟨srcField_formatB .., low16_formatB ..⟩, BitVec.extractLsb'_and] at hlow
  exact ⟨BitVec.and_allOnes.symm.trans hop, BitVec.and_allOnes.symm.trans hlow⟩

end

/-! ### What the parts of the decoder accept -/

theorem Slot.ofNum_eq_some_iff {n : BitVec 4} {k : Slot} : Slot.ofNum n = some k ↔ k.num = n :=
  ⟨Slot.num_of_ofNum, fun h => h ▸ Slot.ofNum_num k⟩

section
variable {x : Word} {i j : Instr}

theorem decodeStage_eq_ok_iff : decodeStage i x = .ok j ↔ x.extractLsb' 0 24 = 0 ∧ j = i := by
  unfold decodeStage
  split
  · next hlow => simp [hlow, eq_comm]
  · next hlow => exact iff_of_false nofun fun h => hlow h.1

theorem decodeDst_eq_ok_iff {mk : Slot → Instr} :
    decodeDst mk x = .ok i ↔ x.extractLsb' 0 20 = 0 ∧ ∃ d : Slot, d.num = dstField x ∧ i = mk d := by
  simp only [← Slot.ofNum_eq_some_iff]
  unfold decodeDst
  split
  · next hlow => cases Slot.ofNum (dstField x) <;> simp [hlow, eq_comm]
  · next hlow => exact iff_of_false nofun fun h => hlow h.1

theorem decodeDstSrc_eq_ok_iff {mk : Slot → Slot → Instr} :
    decodeDstSrc mk x = .ok i ↔ x.extractLsb' 0 16 = 0 ∧
      ∃ d s : Slot, d.num = dstField x ∧ s.num = srcField x ∧ (mk d s).wellFormed = true ∧ i = mk d s := by
  simp only [← Slot.ofNum_eq_some_iff]
  unfold decodeDstSrc
  split
  · next hlow =>
    cases Slot.ofNum (dstField x) with
    | none => simp
    | some d =>
      cases Slot.ofNum (srcField x) with
      | none => simp
      | some s =>
        by_cases hwf : (mk d s).wellFormed = true
        · simpa [hlow, hwf] using eq_comm
        · simp [hlow, hwf]
  · next hlow => exact iff_of_false nofun fun h => hlow h.1

end

/-! ### The encoder and the decoder are inverse -/

section
variable {x : Word} {op : BitVec 8} {i j : Instr}

/-- The branch of a decoder that accepts: its condition holds, or a later branch accepts. -/
theorem ok_of_ite {c : Prop} [Decidable c] {a b : Except DecodeError Instr} (h : (if c then a else b) = .ok i) :
    (c ∧ a = .ok i) ∨ b = .ok i := by
  split at h
  · next hc => exact .inl ⟨hc, h⟩
  · exact .inr h

/-- A stage command without `DIR` is its opcode before 24 zero bits (rule R91). -/
theorem encode_of_decodeStage (hop : opField x = op) (henc : encode i = op ++ 0#24) (hwf : i.wellFormed = true)
    (h : decodeStage i x = .ok j) : encode j = x ∧ j.wellFormed = true := by
  obtain ⟨hlow, rfl⟩ := decodeStage_eq_ok_iff.mp h
  refine ⟨?_, hwf⟩
  rw [henc, word_eq_op_and_rest x, hop, hlow]
  rfl

theorem encode_of_decodeIgd (hop : opField x = 0x10) (h : decodeIgd x = .ok i) :
    encode i = x ∧ i.wellFormed = true := by
  have hword := word_eq_formatS_fields x
  unfold decodeIgd at h
  obtain ⟨hmid, h⟩ | h := ok_of_ite h
  · rw [hop, hmid] at hword
    obtain ⟨hdir, h⟩ | h := ok_of_ite h
    · cases h; exact ⟨by rw [hword, hdir]; rfl, rfl⟩
    obtain ⟨hdir, h⟩ | h := ok_of_ite h
    · cases h; exact ⟨by rw [hword, hdir]; rfl, rfl⟩
    obtain ⟨hdir, h⟩ | h := ok_of_ite h
    · cases h; exact ⟨by rw [hword, hdir]; rfl, rfl⟩
    cases h
  · cases h

theorem encode_of_decodeDst {mk : Slot → Instr} (hop : opField x = op)
    (henc : ∀ d, encode (mk d) = formatB op d.num 0) (hwf : ∀ d, (mk d).wellFormed = true)
    (h : decodeDst mk x = .ok i) : encode i = x ∧ i.wellFormed = true := by
  obtain ⟨hlow, d, hd, rfl⟩ := decodeDst_eq_ok_iff.mp h
  obtain ⟨hsrc, hlow⟩ := low20_eq_zero_iff.mp hlow
  refine ⟨?_, hwf d⟩
  rw [henc, hd, ← hop, ← hsrc, formatB_fields hlow]

theorem encode_of_decodeDstSrc {mk : Slot → Slot → Instr} (hop : opField x = op)
    (henc : ∀ d s, encode (mk d s) = formatB op d.num s.num) (h : decodeDstSrc mk x = .ok i) :
    encode i = x ∧ i.wellFormed = true := by
  obtain ⟨hlow, d, s, hd, hs, hwf, rfl⟩ := decodeDstSrc_eq_ok_iff.mp h
  refine ⟨?_, hwf⟩
  rw [henc, hd, hs, ← hop, formatB_fields hlow]

/-- An accepted word is its command's own word, opcode by opcode (rules R96, R98). -/
theorem encode_of_decode (h : decode x = .ok i) : encode i = x ∧ i.wellFormed = true := by
  unfold decode at h
  obtain ⟨hop, h⟩ | h := ok_of_ite h
  · exact encode_of_decodeIgd hop h
  obtain ⟨hop, h⟩ | h := ok_of_ite h
  · exact encode_of_decodeStage hop rfl rfl h
  obtain ⟨hop, h⟩ | h := ok_of_ite h
  · exact encode_of_decodeStage hop rfl rfl h
  obtain ⟨hop, h⟩ | h := ok_of_ite h
  · exact encode_of_decodeStage hop rfl rfl h
  obtain ⟨hop, h⟩ | h := ok_of_ite h
  · cases h
    exact ⟨by rw [encode, ← hop, ← word_eq_op_and_rest x], rfl⟩
  obtain ⟨hop, h⟩ | h := ok_of_ite h
  · exact encode_of_decodeStage hop rfl rfl h
  obtain ⟨hop, h⟩ | h := ok_of_ite h
  · exact encode_of_decodeDst hop (fun _ => rfl) (fun _ => rfl) h
  obtain ⟨hop, h⟩ | h := ok_of_ite h
  · exact encode_of_decodeDstSrc hop (fun _ _ => rfl) h
  obtain ⟨hop, h⟩ | h := ok_of_ite h
  · exact encode_of_decodeDstSrc hop (fun _ _ => rfl) h
  obtain ⟨hop, h⟩ | h := ok_of_ite h
  · exact encode_of_decodeDst hop (fun _ => rfl) (fun _ => rfl) h
  cases h

theorem decodeDst_formatB (mk : Slot → Instr) (d : Slot) : decodeDst mk (formatB op d.num 0) = .ok (mk d) :=
  decodeDst_eq_ok_iff.mpr
    ⟨low20_eq_zero_iff.mpr ⟨srcField_formatB .., low16_formatB ..⟩, d, (dstField_formatB ..).symm, rfl⟩

theorem decodeDstSrc_formatB {mk : Slot → Slot → Instr} {d s : Slot} (hwf : (mk d s).wellFormed = true) :
    decodeDstSrc mk (formatB op d.num s.num) = .ok (mk d s) :=
  decodeDstSrc_eq_ok_iff.mpr
    ⟨low16_formatB .., d, s, (dstField_formatB ..).symm, (srcField_formatB ..).symm, hwf, rfl⟩

/-- The word of a command that has one decodes to the command (rule R98). -/
theorem decode_encode (hwf : i.wellFormed = true) : decode (encode i) = .ok i := by
  cases i with
  | igdH => rfl
  | igdV => rfl
  | igdVH => rfl
  | ccd => rfl
  | mrg => rfl
  | rrb => rfl
  | demosaic => rfl
  | balloc d => simpa [decode, encode] using decodeDst_formatB (op := 0x20) .balloc d
  | bcopy d s => simp [decode, encode, decodeDstSrc_formatB hwf]
  | bmove d s => simp [decode, encode, decodeDstSrc_formatB hwf]
  | bfree d => simpa [decode, encode] using decodeDst_formatB (op := 0x23) .bfree d
  | refine payload =>
    have hop : opField (0x14#8 ++ payload) = 0x14 := BitVec.extractLsb'_append_eq_left
    have hrest : (0x14#8 ++ payload).extractLsb' 0 24 = payload := BitVec.extractLsb'_append_eq_right
    simp [decode, encode, hop, hrest]

end

/-- The decoder accepts exactly the words of the well-formed commands (rules R96, R98). -/
theorem decode_eq_ok_iff {x : Word} {i : Instr} : decode x = .ok i ↔ encode i = x ∧ i.wellFormed = true :=
  ⟨encode_of_decode, fun ⟨henc, hwf⟩ => henc ▸ decode_encode hwf⟩

/-! ### The opcode map -/

/-- The word of an instruction is of the row of its mnemonic: the lemmas of `TableRow`, together. -/
theorem row_of_encode (i : Instr) : Laws.TableRow.Statement i := by
  cases i with
  | igdH => exact Laws.TableRow.igdH
  | igdV => exact Laws.TableRow.igdV
  | igdVH => exact Laws.TableRow.igdVH
  | ccd => exact Laws.TableRow.ccd
  | mrg => exact Laws.TableRow.mrg
  | rrb => exact Laws.TableRow.rrb
  | demosaic => exact Laws.TableRow.demosaic
  | balloc d => exact Laws.TableRow.balloc d
  | bcopy d s => exact Laws.TableRow.bcopy d s
  | bmove d s => exact Laws.TableRow.bmove d s
  | bfree d => exact Laws.TableRow.bfree d
  | refine payload => exact Laws.TableRow.refine payload

/-- The patterns of two rows of one word agree on the bits that both masks keep. -/
theorem OpcodeRow.patterns_agree {r1 r2 : OpcodeRow} {x : Word} (h1 : r1.holds x = true) (h2 : r2.holds x = true) :
    r1.pattern &&& r2.mask = r2.pattern &&& r1.mask := by
  rw [← beq_iff_eq.mp h1, ← beq_iff_eq.mp h2, BitVec.and_assoc, BitVec.and_assoc, BitVec.and_comm r1.mask]

/-- At most one row matches a word (rule R96): the patterns of two different rows differ within both masks. -/
theorem OpcodeRow.eq_of_holds {r1 r2 : OpcodeRow} {x : Word} (hr1 : r1 ∈ opcodeTable) (hr2 : r2 ∈ opcodeTable)
    (h1 : r1.holds x = true) (h2 : r2.holds x = true) : r1 = r2 := by
  have hdiffer : ∀ r1 ∈ opcodeTable, ∀ r2 ∈ opcodeTable,
      r1.pattern &&& r2.mask = r2.pattern &&& r1.mask → r1 = r2 := by decide
  exact hdiffer r1 hr1 r2 hr2 (OpcodeRow.patterns_agree h1 h2)

/-- A well-formed command that is not legal is the reserved one (rules R97, R261). -/
theorem Instr.eq_refine_of_not_legal {i : Instr} (hwf : i.wellFormed = true) (h : i.legal = false) :
    ∃ payload, i = .refine payload := by
  have hres : i.reserved = true := by simpa [Instr.legal, hwf] using h
  cases i with
  | refine payload => exact ⟨payload, rfl⟩
  | _ => cases hres

end Sys2Proof

namespace Sys2Proof.Machine

/-! ### The legal words -/

theorem dstNumber_eq (x : Word) : dstNumber x = (dstField x).toNat := by
  rw [dstNumber, dstField, BitVec.extractLsb'_toNat, Nat.shiftRight_eq_div_pow]

theorem srcNumber_eq (x : Word) : srcNumber x = (srcField x).toNat := by
  rw [srcNumber, srcField, BitVec.extractLsb'_toNat, Nat.shiftRight_eq_div_pow]

/-- A slot number of 0 to 6 names a slot (rules R20, R94). -/
theorem exists_num_eq {n : BitVec 4} (h : n.toNat ≤ 6) : ∃ k : Slot, k.num = n := by
  obtain ⟨k, hk⟩ := Option.isSome_iff_exists.mp ((Slot.ofNum_isSome n).trans (decide_eq_true h))
  exact ⟨k, Slot.num_of_ofNum hk⟩

/-- The word of a legal command is listed in rule R96. -/
theorem legalWord_encode {i : Instr} (h : i.legal = true) : legalWord (encode i) = true := by
  cases i with
  | igdH => rfl
  | igdV => rfl
  | igdVH => rfl
  | ccd => rfl
  | mrg => rfl
  | rrb => rfl
  | demosaic => rfl
  | balloc d => cases d <;> rfl
  | bcopy d s => cases d <;> cases s <;> rfl
  | bmove d s => revert h; cases d <;> cases s <;> decide
  | bfree d => cases d <;> rfl
  | refine payload => cases h

/-- A word of the row of `BALLOC` or `BFREE` with a legal slot number. -/
theorem exists_formatB_dst {x : Word} {op : BitVec 8} (hx : x &&& 0xFF0FFFFF = formatB op 0 0)
    (hdst : dstNumber x ≤ 6) : ∃ d : Slot, formatB op d.num 0 = x := by
  obtain ⟨rfl, hlow⟩ := fields_of_mask_dst hx
  obtain ⟨hsrc, hlow⟩ := low20_eq_zero_iff.mp hlow
  obtain ⟨d, hd⟩ := exists_num_eq (dstNumber_eq x ▸ hdst)
  exact ⟨d, by rw [hd, ← hsrc, formatB_fields hlow]⟩

/-- A word of the row of `BCOPY` or `BMOVE` with legal slot numbers. -/
theorem exists_formatB_dstSrc {x : Word} {op : BitVec 8} (hx : x &&& 0xFF00FFFF = formatB op 0 0)
    (hdst : dstNumber x ≤ 6) (hsrc : srcNumber x ≤ 6) :
    ∃ d s : Slot, formatB op d.num s.num = x ∧ d.num = dstField x ∧ s.num = srcField x := by
  obtain ⟨rfl, hlow⟩ := fields_of_mask_dstSrc hx
  obtain ⟨d, hd⟩ := exists_num_eq (dstNumber_eq x ▸ hdst)
  obtain ⟨s, hs⟩ := exists_num_eq (srcNumber_eq x ▸ hsrc)
  exact ⟨d, s, by rw [hd, hs, formatB_fields hlow], hd, hs⟩

/-- The legal words of rule R96 are the words of the legal commands. -/
theorem legalWord_iff_encode {x : Word} : legalWord x = true ↔ ∃ i : Instr, encode i = x ∧ i.legal = true := by
  refine ⟨fun h => ?_, fun ⟨i, henc, hlegal⟩ => henc ▸ legalWord_encode hlegal⟩
  simp only [legalWord, Bool.or_eq_true, Bool.and_eq_true, beq_iff_eq, decide_eq_true_eq, or_assoc, and_assoc] at h
  obtain rfl | rfl | rfl | rfl | rfl | rfl | rfl | ⟨hx, hdst⟩ | ⟨hx, hdst, hsrc⟩ | ⟨hx, hdst, hsrc, hkind⟩ |
    ⟨hx, hdst⟩ := h
  · exact ⟨.igdH, rfl, rfl⟩
  · exact ⟨.igdV, rfl, rfl⟩
  · exact ⟨.igdVH, rfl, rfl⟩
  · exact ⟨.ccd, rfl, rfl⟩
  · exact ⟨.mrg, rfl, rfl⟩
  · exact ⟨.rrb, rfl, rfl⟩
  · exact ⟨.demosaic, rfl, rfl⟩
  · obtain ⟨d, hd⟩ := exists_formatB_dst (op := 0x20) hx hdst
    exact ⟨.balloc d, hd, rfl⟩
  · obtain ⟨d, s, henc, -, -⟩ := exists_formatB_dstSrc (op := 0x21) hx hdst hsrc
    exact ⟨.bcopy d s, henc, rfl⟩
  · obtain ⟨d, s, henc, hd, hs⟩ := exists_formatB_dstSrc (op := 0x22) hx hdst hsrc
    refine ⟨.bmove d s, henc, ?_⟩
    rw [dstNumber_eq, srcNumber_eq, ← hd, ← hs] at hkind
    revert hkind
    cases d <;> cases s <;> decide
  · obtain ⟨d, hd⟩ := exists_formatB_dst (op := 0x23) hx hdst
    exact ⟨.bfree d, hd, rfl⟩

theorem legalWord_iff_decode {x : Word} : legalWord x = true ↔ ∃ i, decode x = .ok i ∧ i.legal = true := by
  have hwf : ∀ i : Instr, i.legal = true → i.wellFormed = true := fun i h => (Bool.and_eq_true_iff.mp h).1
  rw [legalWord_iff_encode]
  refine exists_congr fun i =>
    ⟨fun ⟨henc, hlegal⟩ => ?_, fun ⟨hdec, hlegal⟩ => ⟨(encode_of_decode hdec).1, hlegal⟩⟩
  exact ⟨decode_eq_ok_iff.mpr ⟨henc, hwf i hlegal⟩, hlegal⟩

/-- Settles O3: the legal words are those of the legal commands, and so are those the decoder accepts. -/
theorem legalWordsAreThoseOfTheMap : Obligations.LegalWordsAreThoseOfTheMap := by
  refine ⟨fun _ => legalWord_iff_decode, fun _ _ hr1 _ hr2 => OpcodeRow.eq_of_holds hr1 hr2, fun x i hdec => ?_⟩
  obtain ⟨row, hrow, hname, hholds⟩ := row_of_encode i
  rw [(encode_of_decode hdec).1] at hholds
  exact ⟨row, hrow, hholds, hname⟩

/-! ### The illegal words -/

theorem writeCommand_of_decodeError {s : State} {x : Word} {e : DecodeError} (h : decode x = .error e)
    (hidle : s.engine = .idle) : writeCommand x s = .next (s.acceptIllegal x) := by
  rw [writeCommand, h]
  simp only [hidle]

theorem exec_refine_of_idle {s : State} {payload : BitVec 24} (hidle : s.engine = .idle) :
    exec (.refine payload) s = .next (s.acceptIllegal (encode (.refine payload))) := by
  simp only [exec, execRefine, hidle]

/-- A word that is not legal is rejected by the decoder or is a word of `REFINE`; either way it is accepted as illegal
(rules R97, R261). -/
theorem writeCommand_of_not_legalWord {s : State} {x : Word} (h : legalWord x = false) (hidle : s.engine = .idle) :
    writeCommand x s = .next (s.acceptIllegal x) := by
  cases hdec : decode x with
  | error e => exact writeCommand_of_decodeError hdec hidle
  | ok i =>
    obtain ⟨henc, hwf⟩ := encode_of_decode hdec
    have hlegal : i.legal = false :=
      Bool.eq_false_iff.mpr fun hl => Bool.eq_false_iff.mp h (legalWord_iff_decode.mpr ⟨i, hdec, hl⟩)
    obtain ⟨payload, rfl⟩ := Instr.eq_refine_of_not_legal hwf hlegal
    rw [writeCommand_of_decode hdec, exec_refine_of_idle hidle, henc]

/-- Settles O28: the write of the word to `CMD` is performed, and accepts the word as illegal. -/
theorem illegalWordsRaiseIllcmd : Obligations.IllegalWordsRaiseIllcmd := by
  intro s x rest hx hidle hnext
  rw [step_of_performedWrite isOffset_cmd hnext (by rw [hidle]; rfl)]
  exact writeCommand_of_not_legalWord hx hidle

end Sys2Proof.Machine

/-!
## The primitives (40_primitives.md)
-/

namespace Sys2Proof.Machine

/-! ### The clamp and the safe get -/

section
variable {m v : Int}

theorem clampM_of_neg (h : v < 0) : clampM m v = 0 := if_pos h

theorem clampM_of_gt (hm : 0 ≤ m) (h : m < v) : clampM m v = m := by
  rw [clampM, if_neg (by omega), if_pos h]

theorem clampM_of_inRange (h0 : 0 ≤ v) (h : v ≤ m) : clampM m v = v := by
  rw [clampM, if_neg (by omega), if_neg (by omega)]

/-- The clamp as one formula (rule R111). -/
theorem clampM_eq_max_min (hm : 0 ≤ m) : clampM m v = max 0 (min m v) := by
  rcases Int.lt_or_le v 0 with hneg | h0
  · rw [clampM_of_neg hneg]
    omega
  rcases Int.lt_or_le m v with hgt | hle
  · rw [clampM_of_gt hm hgt]
    omega
  · rw [clampM_of_inRange h0 hle]
    omega

theorem clampM_nonneg (hm : 0 ≤ m) : 0 ≤ clampM m v := by
  rw [clampM_eq_max_min hm]
  exact Int.le_max_left _ _

theorem clampM_le (hm : 0 ≤ m) : clampM m v ≤ m := by
  rw [clampM_eq_max_min hm]
  exact Int.max_le.mpr ⟨hm, Int.min_le_left _ _⟩

end

/-- Settles O5. -/
theorem clampSaturates : Obligations.ClampSaturates := fun _ _ hm =>
  ⟨clampM_of_neg, clampM_of_gt hm, clampM_of_inRange, clampM_nonneg hm, clampM_le hm⟩

/-- Settles O6: the bounds of the statement are those of `Plane.inBounds_iff`. -/
theorem safeGetIsZeroOutside : Obligations.SafeGetIsZeroOutside := by
  intro b r c
  rw [← Plane.inBounds_iff]
  exact ⟨fun hin => if_pos hin, fun hout => Plane.get0_outside (Bool.eq_false_iff.mpr hout)⟩

/-! ### The operations on two planes -/

theorem sameShape_iff {b1 b2 : Plane} : sameShape b1 b2 = true ↔ b1.h = b2.h ∧ b1.w = b2.w := by
  simp [sameShape]

theorem zipPlanes_of_sameShape {f : Int → Int → Int} {b1 b2 : Plane} (h : sameShape b1 b2 = true) :
    zipPlanes f b1 b2 = some (Plane.tabulate b1.h b1.w fun r c => f (b1.sample r c) (b2.sample r c)) := if_pos h

theorem zipPlanes_of_two_shapes {f : Int → Int → Int} {b1 b2 : Plane} (h : sameShape b1 b2 = false) :
    zipPlanes f b1 b2 = none := by
  rw [zipPlanes, h, if_neg Bool.false_ne_true]

section
variable {op : CombineOp} {b1 b2 : Plane} {dx dy : Int} {r c : Nat}

theorem combineSample_inside (h : b2.inBounds ((r : Int) + dx) ((c : Int) + dy) = true) :
    combineSample op b1 b2 dx dy r c =
      op.apply (b1.sample r c) (b2.sample ((r : Int) + dx).toNat ((c : Int) + dy).toNat) := if_pos h

/-- Clamp by omission (rule R113). -/
theorem combineSample_outside (h : ¬b2.inBounds ((r : Int) + dx) ((c : Int) + dy) = true) :
    combineSample op b1 b2 dx dy r c = b1.sample r c := if_neg h

theorem combineSample_zero_offset (hr : r < b2.h) (hc : c < b2.w) :
    combineSample op b1 b2 0 0 r c = op.apply (b1.sample r c) (b2.sample r c) := by
  have hin : b2.inBounds ((r : Int) + 0) ((c : Int) + 0) = true := Plane.inBounds_iff.mpr (by omega)
  rw [combineSample_inside hin]
  simp only [Int.add_zero, Int.toNat_natCast]

end

section
variable {op : CombineOp} {b1 b2 : Operand} {dx dy : Int}

theorem shiftedCombine_of_two_shapes (h : sameShape b1.value b2.value = false) :
    shiftedCombine op b1 b2 dx dy = none := by
  simp [shiftedCombine, h]

theorem shiftedCombine_of_aliased (hid : b1.id = b2.id) (hoff : ¬(dx = 0 ∧ dy = 0)) :
    shiftedCombine op b1 b2 dx dy = none := by
  have hrefused : b1.id = b2.id ∧ ¬(dx = 0 ∧ dy = 0) := ⟨hid, hoff⟩
  rw [shiftedCombine, if_pos hrefused, ite_self]

theorem shiftedCombine_of_sameShape (h : sameShape b1.value b2.value = true)
    (halias : b1.id = b2.id → dx = 0 ∧ dy = 0) :
    shiftedCombine op b1 b2 dx dy =
      some (Plane.tabulate b1.value.h b1.value.w (combineSample op b1.value b2.value dx dy)) := by
  rw [shiftedCombine, h, if_neg (by decide), if_neg fun ⟨hid, hoff⟩ => hoff (halias hid)]

/-- A zero offset combines each sample with the one at its own position, whether the operands are of one shape or not,
and aliased or not (rule R116). -/
theorem shiftedCombine_zero_offset : shiftedCombine op b1 b2 0 0 = zipPlanes op.apply b1.value b2.value := by
  cases hshape : sameShape b1.value b2.value with
  | false => rw [shiftedCombine_of_two_shapes hshape, zipPlanes_of_two_shapes hshape]
  | true =>
    obtain ⟨hh, hw⟩ := sameShape_iff.mp hshape
    rw [shiftedCombine_of_sameShape hshape fun _ => ⟨rfl, rfl⟩, zipPlanes_of_sameShape hshape]
    exact congrArg some (Plane.tabulate_congr fun r c hr hc => combineSample_zero_offset (hh ▸ hr) (hw ▸ hc))

end

/-- Settles O7: the two refusals, and the samples in and out of the bounds of `b2`, which are those of the result. -/
theorem shiftedCombineIsPointwise : Obligations.ShiftedCombineIsPointwise := by
  intro op b1 b2 dx dy
  refine ⟨fun hshape => ?_, shiftedCombine_of_aliased, fun hh hw halias => ?_⟩
  · rw [← sameShape_iff] at hshape
    exact shiftedCombine_of_two_shapes (Bool.eq_false_iff.mpr hshape)
  · refine ⟨_, shiftedCombine_of_sameShape (sameShape_iff.mpr ⟨hh, hw⟩) halias, rfl, rfl, fun x y hx hy => ?_⟩
    simp only [Plane.tabulate_h, Plane.tabulate_w] at hx hy ⊢
    rw [Plane.tabulate_sample _ hx hy, hh, hw, ← Plane.inBounds_iff]
    refine ⟨fun hin => ?_, combineSample_outside⟩
    rw [combineSample_inside hin]
    cases op <;> rfl

/-- Settles O8. -/
theorem zeroOffsetCombineIsElementwise : Obligations.ZeroOffsetCombineIsElementwise := fun _ _ =>
  ⟨shiftedCombine_zero_offset, shiftedCombine_zero_offset⟩

/-! ### The element-wise operations, sample by sample -/

@[simp] theorem mapPlane_h (f : Int → Int) (b : Plane) : (mapPlane f b).h = b.h := rfl

@[simp] theorem mapPlane_w (f : Int → Int) (b : Plane) : (mapPlane f b).w = b.w := rfl

@[simp] theorem mapPlane_sample {b : Plane} {r c : Nat} (f : Int → Int) (hr : r < b.h) (hc : c < b.w) :
    (mapPlane f b).sample r c = f (b.sample r c) := Plane.tabulate_sample _ hr hc

theorem absInt_eq_natAbs (v : Int) : absInt v = (v.natAbs : Int) := by
  rw [absInt]
  split <;> omega

/-- Halving the magnitude rounds down, so the quotient is truncated toward zero (rule R117). -/
theorem tdiv2_eq_tdiv (v : Int) : tdiv2 v = Int.tdiv v 2 := by
  rw [tdiv2, fdiv, fdiv]
  split
  · next h0 => exact (Int.tdiv_eq_ediv_of_nonneg h0).symm
  · next hneg => rw [← Int.tdiv_eq_ediv_of_nonneg (by omega), Int.neg_tdiv, Int.neg_neg]

/-- `fdiv v n` is the largest integer whose product with `n` does not exceed `v`. -/
theorem fdiv_bounds (v : Int) {n : Int} (hn : 0 < n) : fdiv v n * n ≤ v ∧ v < (fdiv v n + 1) * n :=
  ⟨Int.ediv_mul_le v (Int.ne_of_gt hn), Int.lt_ediv_add_one_mul_self v hn⟩

/-- Settles O9. -/
theorem elementwisePrimitives : Obligations.ElementwisePrimitives := by
  intro b b2 m k r c hr hc hk hh hw hm
  have hshape : sameShape b b2 = true := sameShape_iff.mpr ⟨hh.symm, hw.symm⟩
  refine ⟨?abs, ⟨_, if_pos hk, ?shr⟩, ?sdiv2, ⟨_, zipPlanes_of_sameShape hshape, ?halfSub⟩, mapPlane_sample _ hr hc,
    ?narrowSat⟩
  case abs => rw [absPlane, mapPlane_sample _ hr hc, absInt_eq_natAbs]
  case shr =>
    rw [mapPlane_sample _ hr hc]
    exact fdiv_bounds _ (Int.pow_pos (by decide))
  case sdiv2 => rw [sdiv2Plane, mapPlane_sample _ hr hc, tdiv2_eq_tdiv]
  case halfSub => rw [Plane.tabulate_sample _ hr hc, tdiv2_eq_tdiv, tdiv2_eq_tdiv]
  case narrowSat => rw [narrowSat, mapPlane_sample _ hr hc, clampM_eq_max_min hm]

end Sys2Proof.Machine

/-!
## The green interpolator (41_green_interpolator.md)
-/

namespace Sys2Proof.Machine

/-! ### The renormalisation table -/

section
variable {f l : Nat}

/-- Each of the fifteen entries is the sum of the weights from its first to its last tap (rule R143). -/
theorem renorm_eq_sumRange (hfl : f ≤ l) (hl : l ≤ 4) : renorm f l = sumRange f l weight := by
  have hall : ∀ l < 5, ∀ f < l + 1, renorm f l = sumRange f l weight := by decide
  exact hall l (Nat.lt_succ_of_le hl) f (Nat.lt_succ_of_le hfl)

/-- A window that includes the site's own tap has a positive sum of weights (rule R143). -/
theorem renorm_pos (hf : f ≤ 2) (h2 : 2 ≤ l) (hl : l ≤ 4) : 0 < renorm f l := by
  have hall : ∀ l < 5, ∀ f < 3, 2 ≤ l → 0 < renorm f l := by decide
  exact hall l (Nat.lt_succ_of_le hl) f (Nat.lt_succ_of_le hf) h2

end

/-- Settles O13. -/
theorem renormTableHoldsWeightSums : Obligations.RenormTableHoldsWeightSums := by
  refine ⟨by decide, by decide, by decide, by decide, by decide, by decide, fun f l hfl hl => ⟨?_, ?_⟩⟩
  · exact renorm_eq_sumRange hfl hl
  · exact fun hf h2 => renorm_pos hf h2 hl

/-! ### The taps in bounds, and their sums -/

theorem sum_map_eq_zero {g : Nat → Int} {l : List Nat} (h : ∀ k ∈ l, g k = 0) : (l.map g).sum = 0 := by
  induction l with
  | nil => rfl
  | cons k rest ih =>
    rw [List.map_cons, List.sum_cons, h k List.mem_cons_self, ih fun j hj => h j (List.mem_cons_of_mem k hj)]
    rfl

/-- The terms before `a` and the terms from `a + b` on vanish, and those between them are the sum. -/
theorem sum_map_range_split {g : Nat → Int} {a b c : Nat} (hbefore : ∀ k, k < a → g k = 0)
    (hafter : ∀ k, a + b ≤ k → g k = 0) :
    ((List.range (a + b + c)).map g).sum = ((List.range b).map fun j => g (a + j)).sum := by
  have hlow : ((List.range a).map g).sum = 0 := sum_map_eq_zero fun k hk => hbefore k (List.mem_range.mp hk)
  have hhigh : ((List.range c).map fun j => g (a + b + j)).sum = 0 :=
    sum_map_eq_zero fun j _ => hafter _ (Nat.le_add_right _ _)
  simp only [List.range_add, List.map_append, List.map_map, List.sum_append, Function.comp_def, hlow, hhigh,
    Int.zero_add, Int.add_zero]

/-- A sum over a range is the sum from 0 to any later end with the terms outside the range left out. -/
theorem sumRange_eq_sum_ite {lo hi n : Nat} (hlo : lo ≤ hi) (hhi : hi < n) (f : Nat → Int) :
    sumRange lo hi f = ((List.range n).map fun k => if lo ≤ k ∧ k ≤ hi then f k else 0).sum := by
  have hlen : n = lo + (hi + 1 - lo) + (n - (hi + 1)) := by omega
  rw [hlen, sum_map_range_split (fun k hk => if_neg (by omega)) fun k hk => if_neg (by omega)]
  refine congrArg List.sum (List.map_congr_left fun j hj => (if_pos ?_).symm)
  have hj' := List.mem_range.mp hj
  omega

/-- What tap `k` of a site contributes before its weight: its sample if the tap is in bounds, else nothing. -/
def tapSample (n pos : Nat) (x : Nat → Int) (k : Nat) : Int :=
  if tapIncluded n pos k then x (pos + k - 2) else 0

section
variable {m v : Int} {n pos k : Nat} {x y : Nat → Int}

theorem tapIncluded_iff : tapIncluded n pos k = true ↔ 2 ≤ pos + k ∧ pos + k < n + 2 := by
  simp [tapIncluded]

theorem firstTap_le_two : firstTap pos ≤ 2 := Nat.sub_le 2 pos

theorem two_le_lastTap (hpos : pos < n) : 2 ≤ lastTap n pos := by
  unfold lastTap
  omega

theorem firstTap_le_lastTap (hpos : pos < n) : firstTap pos ≤ lastTap n pos :=
  Nat.le_trans firstTap_le_two (two_le_lastTap hpos)

theorem lastTap_le_four : lastTap n pos ≤ 4 := Nat.min_le_left 4 _

/-- The taps from the first to the last are those in bounds (rule R142). -/
theorem window_iff_tapIncluded (hpos : pos < n) (hk : k < 5) :
    firstTap pos ≤ k ∧ k ≤ lastTap n pos ↔ tapIncluded n pos k = true := by
  rw [tapIncluded_iff, firstTap, lastTap]
  omega

/-- All five taps are in bounds exactly at distance 2 from both ends of the axis (rule R142). -/
theorem window_full_iff (hpos : pos < n) :
    firstTap pos = 0 ∧ lastTap n pos = 4 ↔ 2 ≤ pos ∧ pos + 3 ≤ n := by
  rw [firstTap, lastTap]
  omega

/-- A sum over the window, tap by tap. -/
theorem sumRange_window (hpos : pos < n) (f : Nat → Int) :
    sumRange (firstTap pos) (lastTap n pos) f =
      ((List.range 5).map fun k => if tapIncluded n pos k then f k else 0).sum := by
  rw [sumRange_eq_sum_ite (firstTap_le_lastTap hpos) (Nat.lt_succ_of_le lastTap_le_four)]
  refine congrArg List.sum (List.map_congr_left fun k hk => ?_)
  simp only [window_iff_tapIncluded hpos (List.mem_range.mp hk)]

theorem rawSum_eq_tapSum (hpos : pos < n) : rawSum n pos x = tapSum n pos x := sumRange_window hpos _

theorem renorm_eq_tapWeights (hpos : pos < n) : renorm (firstTap pos) (lastTap n pos) = tapWeights n pos := by
  rw [renorm_eq_sumRange (firstTap_le_lastTap hpos) lastTap_le_four]
  exact sumRange_window hpos _

theorem tapWeights_pos (hpos : pos < n) : 0 < tapWeights n pos := by
  rw [← renorm_eq_tapWeights hpos]
  exact renorm_pos firstTap_le_two (two_le_lastTap hpos) lastTap_le_four

/-- The estimate is the floor quotient of the two sums over the taps in bounds, clamped (rule R144). -/
theorem estimate_eq (hpos : pos < n) : estimate m n pos x = clampM m (tapSum n pos x / tapWeights n pos) := by
  rw [estimate, fdiv, rawSum_eq_tapSum hpos, renorm_eq_tapWeights hpos]

/-- The weighted sum with the kernel of rule R141 written out. -/
theorem tapSum_eq : tapSum n pos x =
    -tapSample n pos x 0 + 2 * tapSample n pos x 1 + 2 * tapSample n pos x 2 + 2 * tapSample n pos x 3 -
      tapSample n pos x 4 := by
  have hterm : ∀ k, (if tapIncluded n pos k then weight k * x (pos + k - 2) else 0) =
      weight k * tapSample n pos x k := by
    intro k
    unfold tapSample
    split
    · rfl
    · exact (Int.mul_zero _).symm
  have hkernel : weight 0 = -1 ∧ weight 1 = 2 ∧ weight 2 = 2 ∧ weight 3 = 2 ∧ weight 4 = -1 := by decide
  obtain ⟨w0, w1, w2, w3, w4⟩ := hkernel
  have hrange : List.range 5 = [0, 1, 2, 3, 4] := by decide
  simp only [tapSum, hterm, hrange, List.map_cons, List.map_nil, List.sum_cons, List.sum_nil, w0, w1, w2, w3, w4]
  omega

/-- The taps in bounds read samples of the axis only. -/
theorem tapSample_congr (h : ∀ q, q < n → x q = y q) : tapSample n pos x k = tapSample n pos y k := by
  unfold tapSample
  split
  · next hin => exact h _ (by rw [tapIncluded_iff] at hin; omega)
  · rfl

theorem tapSample_inRange (hm : 0 ≤ m) (h : ∀ q, q < n → 0 ≤ x q ∧ x q ≤ m) :
    0 ≤ tapSample n pos x k ∧ tapSample n pos x k ≤ m := by
  unfold tapSample
  split
  · next hin => exact h _ (by rw [tapIncluded_iff] at hin; omega)
  · exact ⟨Int.le_refl 0, hm⟩

theorem tapSample_interior {q : Nat} (h3 : pos + 3 ≤ n) (hk : k < 5) (hq : pos + k = q + 2) :
    tapSample n pos x k = x q := by
  rw [tapSample, if_pos (tapIncluded_iff.mpr (by omega)), hq, Nat.add_sub_cancel]

/-- The sum reads samples of the axis only. -/
theorem tapSum_congr (h : ∀ q, q < n → x q = y q) : tapSum n pos x = tapSum n pos y := by
  simp only [tapSum_eq, tapSample_congr h]

/-- Weights of both signs: the sum of samples in range lies between minus two and six times their bound (rule R144). -/
theorem tapSum_bounds (hpos : pos < n) (h : ∀ q, q < n → 0 ≤ x q ∧ x q ≤ m) :
    -2 * m ≤ tapSum n pos x ∧ tapSum n pos x ≤ 6 * m := by
  have hm : 0 ≤ m := Int.le_trans (h pos hpos).1 (h pos hpos).2
  have ht : ∀ k, 0 ≤ tapSample n pos x k ∧ tapSample n pos x k ≤ m := fun k => tapSample_inRange hm h
  have h0 := ht 0
  have h1 := ht 1
  have h2 := ht 2
  have h3 := ht 3
  have h4 := ht 4
  rw [tapSum_eq]
  omega

/-- With all five taps in bounds the weights sum to 4. -/
theorem tapWeights_interior (h2 : 2 ≤ pos) (h3 : pos + 3 ≤ n) : tapWeights n pos = 4 := by
  have hpos : pos < n := by omega
  obtain ⟨hfirst, hlast⟩ := (window_full_iff hpos).mpr ⟨h2, h3⟩
  rw [← renorm_eq_tapWeights hpos, hfirst, hlast]
  rfl

/-- The interior estimate as rule R141 writes it out. -/
theorem estimate_interior (h2 : 2 ≤ pos) (h3 : pos + 3 ≤ n) : estimate m n pos x =
    clampM m ((2 * x (pos - 1) + 2 * x (pos + 1) + 2 * x pos - x (pos - 2) - x (pos + 2)) / 4) := by
  have hsum : tapSum n pos x =
      2 * x (pos - 1) + 2 * x (pos + 1) + 2 * x pos - x (pos - 2) - x (pos + 2) := by
    have tap : ∀ {k q}, k < 5 → pos + k = q + 2 → tapSample n pos x k = x q := tapSample_interior h3
    rw [tapSum_eq, tap (k := 0) (q := pos - 2) (by decide) (by omega),
      tap (k := 1) (q := pos - 1) (by decide) (by omega), tap (k := 2) (q := pos) (by decide) (by omega),
      tap (k := 3) (q := pos + 1) (by decide) (by omega), tap (k := 4) (q := pos + 2) (by decide) (by omega)]
    omega
  rw [estimate_eq (by omega), hsum, tapWeights_interior h2 h3]

/-- The estimate reads samples of the axis only. -/
theorem estimate_congr (hpos : pos < n) (h : ∀ q, q < n → x q = y q) : estimate m n pos x = estimate m n pos y := by
  rw [estimate_eq hpos, estimate_eq hpos, tapSum_congr h]

theorem tapWeights_eq : tapWeights n pos = tapSum n pos fun _ => 1 := by
  simp only [tapWeights, tapSum, Int.mul_one]

theorem tapSample_const : tapSample n pos (fun _ => v) k = tapSample n pos (fun _ => 1) k * v := by
  unfold tapSample
  split
  · exact (Int.one_mul v).symm
  · exact (Int.zero_mul v).symm

theorem tapSum_const : (tapSum n pos fun _ => v) = tapWeights n pos * v := by
  simp only [tapWeights_eq, tapSum_eq, tapSample_const (v := v), Int.sub_mul, Int.add_mul, Int.neg_mul, Int.mul_assoc]

/-- The division by the sum of the weights restores a constant, in the interior and at the ends (rule R148(a)). -/
theorem estimate_of_constant (h0 : 0 ≤ v) (hv : v ≤ m) (hpos : pos < n) (h : ∀ q, q < n → x q = v) :
    estimate m n pos x = v := by
  rw [estimate_eq hpos, tapSum_congr h, tapSum_const, Int.mul_ediv_cancel_left _ (Int.ne_of_gt (tapWeights_pos hpos)),
    clampM_of_inRange h0 hv]

end

/-- Settles O14. -/
theorem estimateIsTheRenormalisedTapSum : Obligations.EstimateIsTheRenormalisedTapSum := by
  intro m n pos x hpos
  refine ⟨fun k => window_iff_tapIncluded hpos, firstTap_le_two, two_le_lastTap hpos, window_full_iff hpos,
    rawSum_eq_tapSum hpos, renorm_eq_tapWeights hpos, tapWeights_pos hpos, estimate_eq hpos, estimate_interior, ?_⟩
  rw [rawSum_eq_tapSum hpos]
  exact tapSum_bounds hpos

/-! ### The passes over a mosaic -/

section
variable {m v : Int} {p : Pattern} {d : Direction} {mos : Plane} {r c : Nat}

@[simp] theorem fir_h : (fir m p d mos).h = mos.h := rfl

@[simp] theorem fir_w : (fir m p d mos).w = mos.w := rfl

/-- Green sites are copied through (rule R146). -/
theorem fir_sample_green (hr : r < mos.h) (hc : c < mos.w) (hg : isGreen p r c = true) :
    (fir m p d mos).sample r c = mos.sample r c := by
  rw [fir, Plane.tabulate_sample _ hr hc, if_pos hg]

/-- The other sites are estimated along the direction (rule R145). -/
theorem fir_sample_offGreen (hr : r < mos.h) (hc : c < mos.w) (hg : isGreen p r c = false) :
    (fir m p d mos).sample r c = siteEstimate m mos d r c := by
  rw [fir, Plane.tabulate_sample _ hr hc, if_neg (by simp [hg])]

theorem isGreen_comm : isGreen p c r = isGreen p r c := by
  unfold isGreen
  rw [Nat.add_comm]

theorem transposed_sample (hr : r < mos.w) (hc : c < mos.h) : (transposed mos).sample r c = mos.sample c r :=
  Plane.tabulate_sample _ hr hc

/-- The column of a site is a row of the transposed mosaic (rule R145). -/
theorem siteEstimate_transposed (hr : r < mos.h) (hc : c < mos.w) :
    siteEstimate m (transposed mos) .horizontal c r = siteEstimate m mos .vertical r c :=
  estimate_congr hr fun _ hq => transposed_sample hc hq

theorem fir_vertical_eq_transposed :
    fir m p .vertical mos = transposed (fir m p .horizontal (transposed mos)) := by
  refine Plane.tabulate_congr fun r c (hr : r < mos.h) (hc : c < mos.w) => ?_
  cases hg : isGreen p r c with
  | true => rw [if_pos rfl, fir_sample_green hc hr (isGreen_comm.trans hg), transposed_sample hc hr]
  | false =>
    rw [if_neg Bool.false_ne_true, fir_sample_offGreen hc hr (isGreen_comm.trans hg), siteEstimate_transposed hr hc]

theorem siteEstimate_inRange (hm : 0 ≤ m) : 0 ≤ siteEstimate m mos d r c ∧ siteEstimate m mos d r c ≤ m := by
  cases d <;> exact ⟨clampM_nonneg hm, clampM_le hm⟩

/-- Green samples are the mosaic's own, and the others are clamped (rule R148(b)). -/
theorem fir_samplesIn (hm : 0 ≤ m) (h : SamplesIn mos m) : SamplesIn (fir m p d mos) m := by
  intro r c (hr : r < mos.h) (hc : c < mos.w)
  cases hg : isGreen p r c with
  | true => rw [fir_sample_green hr hc hg]; exact h r c hr hc
  | false => rw [fir_sample_offGreen hr hc hg]; exact siteEstimate_inRange hm

variable {h w : Nat}

theorem flatPlane_sample (hr : r < h) (hc : c < w) : (flatPlane h w v).sample r c = v := Plane.tabulate_sample _ hr hc

theorem siteEstimate_flatPlane (h0 : 0 ≤ v) (hv : v ≤ m) (hr : r < h) (hc : c < w) :
    siteEstimate m (flatPlane h w v) d r c = v := by
  cases d with
  | horizontal => exact estimate_of_constant h0 hv hc fun _ hq => flatPlane_sample hr hq
  | vertical => exact estimate_of_constant h0 hv hr fun _ hq => flatPlane_sample hq hc

/-- The flat-field property (rule R148(a)). -/
theorem fir_flatPlane (h0 : 0 ≤ v) (hv : v ≤ m) : fir m p d (flatPlane h w v) = flatPlane h w v := by
  refine Plane.tabulate_congr fun r c (hr : r < h) (hc : c < w) => ?_
  rw [flatPlane_sample hr hc, siteEstimate_flatPlane h0 hv hr hc, ite_self]

end

/-- Settles O15. -/
theorem firFollowsTheTwoDirections : Obligations.FirFollowsTheTwoDirections :=
  ⟨fun _ _ _ _ _ hr hc =>
    ⟨fun hg _ => fir_sample_green hr hc hg, fun hg => ⟨fir_sample_offGreen hr hc hg, fir_sample_offGreen hr hc hg⟩⟩,
    fun _ _ _ => fir_vertical_eq_transposed⟩

/-- Settles O16. -/
theorem flatFieldIsReproduced : Obligations.FlatFieldIsReproduced :=
  ⟨fun _ _ _ _ _ _ => fir_flatPlane, fun _ _ _ _ => fir_samplesIn⟩

/-! ### The acceptance and the completion of a stage command -/

section
variable {s : State} {i : Instr}

/-- The recorded number of a slot in the two ways it is written (rule R270). -/
theorem slotInfo_eq (k : Slot) : slotInfo k = BitVec.ofNat 32 k.num.toNat := by
  cases k <;> rfl

/-- The checks of the input slots in their order (rule R271, check 4). -/
theorem firstFault_inputChecks (s : State) (slots : List Slot) :
    firstFault s (inputChecks slots) = slotFault s true slots := by
  induction slots with
  | nil => rfl
  | cons k rest ih =>
    rw [inputChecks, firstFault_cons, firstFault_cons, ih, slotFault, ← slotInfo_eq]
    cases hm : s.mem.slot k with
    | none => simp [checkFault, Memory.valid, hm]
    | some ras =>
      cases hk : s.shapeOK k with
      | false => simp [checkFault, Memory.valid, hm, hk]
      | true => simp [checkFault, Memory.valid, hm, hk]

/-- The stage commands by their columns in the table of rule R234. -/
theorem isStageCommand_columns (hi : isStageCommand i = true) :
    acceptanceChecks i = stageChecks i (checkedSlots i) ∧ i.legal = true ∧ needsWidth i = true ∧
      checksDims i = true := by
  cases i with
  | igdH | igdV | igdVH | ccd | mrg | rrb | demosaic => exact ⟨rfl, rfl, rfl, rfl⟩
  | balloc | bcopy | bmove | bfree | refine => cases hi

/-- A stage command reports the fault of the table of rule R234, in the order of rule R271. -/
theorem firstFault_of_stageCommand (hi : isStageCommand i = true) (s : State) :
    firstFault s (acceptanceChecks i) = reportedFault s i := by
  obtain ⟨hchecks, hlegal, hwidth, hdims⟩ := isStageCommand_columns hi
  have hcode : s.cfg.widthOK = !decide (2 ≤ s.cfg.swc.toNat) := by simp [Cfg.widthOK, ← decide_not]
  simp only [hchecks, stageChecks, List.cons_append, List.nil_append, firstFault_cons, firstFault_inputChecks,
    reportedFault, checkFault, hlegal, hwidth, hdims, hi, hcode]
  by_cases h2 : 2 ≤ s.cfg.swc.toNat
  · simp [h2]
  · cases s.dimsOK with
    | false => simp [h2]
    | true => simp [h2]

theorem exec_stageCommand_idle (hi : isStageCommand i = true) (hidle : s.engine = .idle) :
    exec i s = .next (s.accept i (firstStage i)) := by
  cases i with
  | igdH | igdV | igdVH | ccd | mrg | rrb => exact runSingleStage_idle hidle
  | demosaic => simp [exec, execDemosaic, hidle, firstStage]
  | balloc | bcopy | bmove | bfree | refine => cases hi

theorem acceptsByItsChecks_of_stageCommand (hi : isStageCommand i = true) : AcceptsByItsChecks i := by
  intro s hidle
  rw [exec_stageCommand_idle hi hidle, State.accept, firstFault_latchCommand, firstFault_of_stageCommand hi]
  cases reportedFault s i <;> rfl

/-- A stage command that is ready passes its checks (rules R234, R271). -/
theorem firstFault_of_stageReady (hi : isStageCommand i = true) (h : StageReady s (checkedSlots i)) :
    firstFault s (acceptanceChecks i) = none := by
  obtain ⟨-, hwidth, hdims, hslots⟩ := h
  obtain ⟨hchecks, hlegal, -⟩ := isStageCommand_columns hi
  simp [hchecks, stageChecks, firstFault_cons, checkFault, hlegal, Cfg.widthOK_iff.mpr hwidth, hdims,
    inputChecks_pass hslots]

theorem exec_of_stageReady (hi : isStageCommand i = true) (h : StageReady s (checkedSlots i)) :
    exec i s = .next (acceptedState s i (firstStage i)) := by
  rw [exec_stageCommand_idle hi h.1, State.accept_of_checks (firstFault_of_stageReady hi h)]
  rfl

/-- A ready command of one stage completes with the slots its stage leaves (rules R230, R233). -/
theorem completesWith_of_stageReady {work : State → State} (hi : isStageCommand i = true)
    (hexec : ∀ t, exec i t = runSingleStage i (firstStage i) work t) (hframe : WritesOnlySlots work)
    (h : StageReady s (checkedSlots i)) :
    CompletesWith s i (firstStage i) (work (acceptedState s i (firstStage i))).mem := by
  refine ⟨exec_of_stageReady hi h, ?_⟩
  rw [hexec, runSingleStage_busy rfl, hframe]
  rfl

end

/-! ### The three forms of `IGD` -/

/-- A pass filters slot 0 itself when the slot has the shape `DIM` (rules R24, R147). -/
theorem State.firPlane_eq {s : State} (h : s.shapeOK .mosaic = true) (d : Direction) :
    s.firPlane d = fir s.cfg.maxSample s.cfg.pattern d (s.mem.plane .mosaic) := by
  rw [State.firPlane, State.input_eq_plane h]

theorem interpolateV_mem (s : State) : (interpolateV s).mem =
    { s.mem with greenV := some ⟨s.cfg.sampleBytes, s.firPlane .vertical⟩ } := rfl

theorem interpolateH_mem (s : State) : (interpolateH s).mem =
    { s.mem with greenH := some ⟨s.cfg.sampleBytes, s.firPlane .horizontal⟩ } := rfl

/-- The horizontal pass does not read what the vertical one writes (rule R72). -/
theorem interpolateVH_mem (s : State) : (interpolateVH s).mem =
    { s.mem with
      greenV := some ⟨s.cfg.sampleBytes, s.firPlane .vertical⟩
      greenH := some ⟨s.cfg.sampleBytes, s.firPlane .horizontal⟩ } := rfl

/-- Settles O30. -/
theorem igdCompletes : Obligations.IgdCompletes := by
  refine ⟨by decide, by decide, by decide, acceptsByItsChecks_of_stageCommand rfl,
    acceptsByItsChecks_of_stageCommand rfl, acceptsByItsChecks_of_stageCommand rfl, fun s hready => ?_⟩
  have ⟨_, _, _, hslots⟩ := hready
  have hmosaic : s.shapeOK .mosaic = true := hslots _ List.mem_cons_self
  rw [← s.firPlane_eq hmosaic, ← s.firPlane_eq hmosaic]
  exact ⟨completesWith_of_stageReady (work := interpolateH) rfl (fun _ => rfl) (fun _ => rfl) hready,
    completesWith_of_stageReady (work := interpolateV) rfl (fun _ => rfl) (fun _ => rfl) hready,
    completesWith_of_stageReady (work := interpolateVH) rfl (fun _ => rfl) (fun _ => rfl) hready⟩

end Sys2Proof.Machine

/-!
## The classifier (42_classifier.md)
-/

namespace Sys2Proof.Machine

/-! ### Sums over a range -/

section
variable {lo hi : Nat}

theorem sumRange_eq_sum_range' (lo hi : Nat) (f : Nat → Int) :
    sumRange lo hi f = ((List.range' lo (hi + 1 - lo)).map f).sum := by
  rw [List.range'_eq_map_range, List.map_map]
  rfl

theorem sumRange_add_last (h : lo ≤ hi + 1) (f : Nat → Int) :
    sumRange lo (hi + 1) f = sumRange lo hi f + f (hi + 1) := by
  have hlen : hi + 1 + 1 - lo = hi + 1 - lo + 1 := Nat.succ_sub h
  rw [sumRange_eq_sum_range', sumRange_eq_sum_range', hlen, List.range'_1_concat, List.map_append, List.sum_append,
    Nat.add_sub_cancel' h, List.map_singleton, List.sum_cons, List.sum_nil, Int.add_zero]

theorem sumRange_first_add (h : lo ≤ hi) (f : Nat → Int) : sumRange lo hi f = f lo + sumRange (lo + 1) hi f := by
  have hlen : hi + 1 - lo = hi + 1 - (lo + 1) + 1 := by omega
  rw [sumRange_eq_sum_range', sumRange_eq_sum_range', hlen, List.range'_succ, List.map_cons, List.sum_cons]

end

section
variable {l : List Nat} {f : Nat → Int}

theorem sum_map_add (f g : Nat → Int) (l : List Nat) :
    (l.map fun k => f k + g k).sum = (l.map f).sum + (l.map g).sum := by
  induction l with
  | nil => rfl
  | cons k rest ih =>
    simp only [List.map_cons, List.sum_cons, ih]
    omega

theorem sum_map_comm (f : Nat → Nat → Int) (l l' : List Nat) :
    (l.map fun a => (l'.map fun b => f a b).sum).sum = (l'.map fun b => (l.map fun a => f a b).sum).sum := by
  induction l with
  | nil => exact (sum_map_eq_zero fun _ _ => rfl).symm
  | cons a rest ih => simp only [List.map_cons, List.sum_cons, ih, sum_map_add]

/-- A sum of terms between `-a` and `b` is between the bounds times any bound of the number of terms. -/
theorem sum_map_bounds {a b : Int} {n : Nat} (ha : 0 ≤ a) (hb : 0 ≤ b) (hlen : l.length ≤ n)
    (h : ∀ k ∈ l, -a ≤ f k ∧ f k ≤ b) : -(n * a) ≤ (l.map f).sum ∧ (l.map f).sum ≤ n * b := by
  induction l generalizing n with
  | nil =>
    rw [List.map_nil, List.sum_nil]
    have hn : 0 ≤ (n : Int) := Int.natCast_nonneg n
    exact ⟨Int.neg_nonpos_of_nonneg (Int.mul_nonneg hn ha), Int.mul_nonneg hn hb⟩
  | cons k rest ih =>
    obtain ⟨n, rfl⟩ : ∃ n', n = n' + 1 := ⟨n - 1, by rw [List.length_cons] at hlen; omega⟩
    have hk := h k List.mem_cons_self
    have hrest := ih (Nat.le_of_succ_le_succ hlen) fun j hj => h j (List.mem_cons_of_mem k hj)
    simp only [List.map_cons, List.sum_cons, Int.natCast_succ, Int.add_mul, Int.one_mul]
    omega

end

/-! ### The window along one axis -/

/-- The sum of `f` over the in-bounds positions at distance at most 2 from `p` on an axis of length `n` (rule R165). -/
def windowAlong (n p : Nat) (f : Nat → Int) : Int := sumRange (p - 2) (min (n - 1) (p + 2)) f

/-- The in-bounds positions at distance at most 2 from `p` on an axis of length `n`. -/
def windowPositions (n p : Nat) : List Nat := List.range' (p - 2) (min (n - 1) (p + 2) + 1 - (p - 2))

theorem windowAlong_eq_sum (n p : Nat) (f : Nat → Int) : windowAlong n p f = ((windowPositions n p).map f).sum :=
  sumRange_eq_sum_range' _ _ f

theorem windowSumAt_eq (d : Plane) (r c : Nat) :
    windowSumAt d r c = windowAlong d.h r fun rr => windowAlong d.w c fun cc => d.sample rr cc := rfl

section
variable {n p : Nat} {f g : Nat → Int}

theorem lt_of_mem_windowPositions {k : Nat} (hn : 0 < n) (hk : k ∈ windowPositions n p) : k < n := by
  have hmem := List.mem_range'_1.mp hk
  omega

/-- A window has at most five positions (rule R165). -/
theorem length_windowPositions_le : (windowPositions n p).length ≤ 5 := by
  rw [windowPositions, List.length_range']
  omega

/-- The window moved on by one position: one term enters, one leaves, each unless it is out of bounds (rules R168,
R169). -/
theorem windowAlong_succ (hp : p < n) (f : Nat → Int) :
    windowAlong n (p + 1) f =
      windowAlong n p f + (if p + 3 ≤ n - 1 then f (p + 3) else 0) - (if 2 ≤ p then f (p - 2) else 0) := by
  have henter : sumRange (p - 2) (min (n - 1) (p + 3)) f =
      sumRange (p - 2) (min (n - 1) (p + 2)) f + (if p + 3 ≤ n - 1 then f (p + 3) else 0) := by
    split
    · next hin =>
      rw [Nat.min_eq_right hin, Nat.min_eq_right (by omega), sumRange_add_last (by omega)]
    · have hsame : min (n - 1) (p + 3) = min (n - 1) (p + 2) := by omega
      rw [hsame, Int.add_zero]
  have hleave : sumRange (p - 2) (min (n - 1) (p + 3)) f =
      (if 2 ≤ p then f (p - 2) else 0) + sumRange (p + 1 - 2) (min (n - 1) (p + 3)) f := by
    split
    · have hstart : p - 2 + 1 = p + 1 - 2 := by omega
      rw [sumRange_first_add (by omega), hstart]
    · have hsame : p - 2 = p + 1 - 2 := by omega
      rw [hsame, Int.zero_add]
  have hnext : windowAlong n (p + 1) f = sumRange (p + 1 - 2) (min (n - 1) (p + 3)) f := rfl
  have hthis : windowAlong n p f = sumRange (p - 2) (min (n - 1) (p + 2)) f := rfl
  omega

theorem windowAlong_congr (hn : 0 < n) (h : ∀ k, k < n → f k = g k) : windowAlong n p f = windowAlong n p g := by
  rw [windowAlong_eq_sum, windowAlong_eq_sum]
  exact congrArg List.sum (List.map_congr_left fun k hk => h k (lt_of_mem_windowPositions hn hk))

theorem windowAlong_bounds {a b : Int} (hn : 0 < n) (ha : 0 ≤ a) (hb : 0 ≤ b)
    (h : ∀ k, k < n → -a ≤ f k ∧ f k ≤ b) : -(5 * a) ≤ windowAlong n p f ∧ windowAlong n p f ≤ 5 * b := by
  rw [windowAlong_eq_sum]
  exact sum_map_bounds ha hb length_windowPositions_le fun k hk => h k (lt_of_mem_windowPositions hn hk)

/-- The window as a sum over the whole axis with the positions outside it left out. -/
theorem windowAlong_eq_sum_ite (hp : p < n) (f : Nat → Int) :
    windowAlong n p f = ((List.range n).map fun k => if k ≤ p + 2 ∧ p ≤ k + 2 then f k else 0).sum := by
  rw [windowAlong, sumRange_eq_sum_ite (n := n) (by omega) (by omega)]
  refine congrArg List.sum (List.map_congr_left fun k hk => ?_)
  have hk := List.mem_range.mp hk
  exact ite_congr (propext (by omega)) (fun _ => rfl) fun _ => rfl

end

/-- Rows first or columns first, the sum over a 5×5 window is the same. -/
theorem windowAlong_comm (n p n' p' : Nat) (f : Nat → Nat → Int) :
    (windowAlong n p fun a => windowAlong n' p' fun b => f a b) =
      windowAlong n' p' fun b => windowAlong n p fun a => f a b := by
  simp only [windowAlong_eq_sum]
  exact sum_map_comm f _ _

/-! ### The windowed sum -/

section
variable {d : Plane} {r c : Nat}

theorem windowSum_sample (hr : r < d.h) (hc : c < d.w) : (windowSum d).sample r c = windowSumAt d r c :=
  Plane.tabulate_sample _ hr hc

/-- The windowed sum is the sum over the positions at distance at most 2 in the row and in the column (rule R164). -/
theorem windowSumAt_eq_neighbourhoodSum (hr : r < d.h) (hc : c < d.w) : windowSumAt d r c = neighbourhoodSum d r c := by
  rw [windowSumAt_eq, windowAlong_eq_sum_ite hr]
  refine congrArg List.sum (List.map_congr_left fun rr _ => ?_)
  rw [windowAlong_eq_sum_ite hc]
  by_cases hrow : rr ≤ r + 2 ∧ r ≤ rr + 2
  · simp only [hrow, and_self, true_and, if_true]
  · rw [if_neg hrow]
    exact (sum_map_eq_zero fun cc _ => if_neg fun ⟨h1, h2, _⟩ => hrow ⟨h1, h2⟩).symm

/-- At most 25 terms (rule R164). -/
theorem windowSumAt_bounds {a b : Int} (ha : 0 ≤ a) (hb : 0 ≤ b)
    (h : ∀ r c, r < d.h → c < d.w → -a ≤ d.sample r c ∧ d.sample r c ≤ b) (hr : r < d.h) (hc : c < d.w) :
    -(25 * a) ≤ windowSumAt d r c ∧ windowSumAt d r c ≤ 25 * b := by
  have hall : -(5 * (5 * a)) ≤ windowSumAt d r c ∧ windowSumAt d r c ≤ 5 * (5 * b) :=
    windowAlong_bounds (Nat.zero_lt_of_lt hr) (by omega) (by omega) fun rr hrr =>
      windowAlong_bounds (Nat.zero_lt_of_lt hc) ha hb fun cc hcc => h rr cc hrr hcc
  omega

end

/-! ### The accumulator and its invariants -/

/-- A column sum at row `r` (invariant I1 of rule R166). -/
def columnSum (d : Plane) (r c : Nat) : Int := windowAlong d.h r fun rr => d.sample rr c

/-- The line buffer with the columns before `k` at row `r + 1` and the others at row `r`: `k = 0` is invariant I1 at row
`r`, and `k` between 0 and the width is the line buffer of the fused schedule inside the row (rule R170). -/
def lineBuffer (d : Plane) (r k : Nat) : List Int :=
  (List.range d.w).map fun c => columnSum d (if c < k then r + 1 else r) c

/-- The row of outputs that the accumulator gives at row `r` (invariant I2 of rule R167). -/
def outputRow (d : Plane) (r : Nat) : List Int :=
  (List.range d.w).map fun c => windowAlong d.w c fun cc => (lineBuffer d r 0).getD cc 0

section
variable {d : Plane} {r c k n w : Nat}

theorem lineBuffer_getD (hc : c < d.w) (k : Nat) :
    (lineBuffer d r k).getD c 0 = columnSum d (if c < k then r + 1 else r) c := by
  simp [lineBuffer, hc]

/-- The columns that are not advanced are as at the start of the row. -/
theorem lineBuffer_getD_of_le (h : k ≤ c) : (lineBuffer d r k).getD c 0 = (lineBuffer d r 0).getD c 0 := by
  rcases Nat.lt_or_ge c d.w with hc | hc
  · rw [lineBuffer_getD hc, lineBuffer_getD hc, if_neg (Nat.not_lt.mpr h), if_neg (Nat.not_lt_zero c)]
  · simp [lineBuffer, List.getD_eq_getElem?_getD, hc]

/-- With every column advanced the line buffer is that of the next row. -/
theorem lineBuffer_full (d : Plane) (r : Nat) : lineBuffer d r d.w = lineBuffer d (r + 1) 0 :=
  List.map_congr_left fun c hc => by rw [if_pos (List.mem_range.mp hc), if_neg (Nat.not_lt_zero c)]

/-- Rule R166 establishes I1 at row 0. -/
theorem initialColumns_eq_lineBuffer : initialColumns d = lineBuffer d 0 0 := by
  refine List.map_congr_left fun c _ => ?_
  rw [if_neg (Nat.not_lt_zero c), columnSum, windowAlong, Nat.min_comm]

theorem slideDownColumn_columnSum (hr : r < d.h) (c : Nat) :
    slideDownColumn d r c (columnSum d r c) = columnSum d (r + 1) c := (windowAlong_succ hr _).symm

/-- Rule R169 takes I1 from row `r` to row `r + 1`. -/
theorem slideDown_lineBuffer (hr : r < d.h) : slideDown d r (lineBuffer d r 0) = lineBuffer d (r + 1) 0 := by
  refine List.map_congr_left fun c hc => ?_
  rw [lineBuffer_getD (List.mem_range.mp hc), if_neg (Nat.not_lt_zero c), if_neg (Nat.not_lt_zero c),
    slideDownColumn_columnSum hr]

/-- Rule R167 establishes I2 at column 0. -/
theorem initialWindow_eq_windowAlong (w : Nat) (colsum : List Int) :
    initialWindow w colsum = windowAlong w 0 fun cc => colsum.getD cc 0 := by
  rw [initialWindow, windowAlong, Nat.min_comm]

/-- Rule R168 takes I2 from column `c` to column `c + 1`. It reads no column before `c − 2`. -/
theorem slideRight_windowAlong {colsum : List Int} {x : Nat → Int} (hc : c < w)
    (hx : ∀ j, c - 2 ≤ j → colsum.getD j 0 = x j) :
    slideRight w colsum c (windowAlong w c x) = windowAlong w (c + 1) x := by
  rw [slideRight, hx (c + 3) (by omega), hx (c - 2) (Nat.le_refl _), windowAlong_succ hc]

theorem scanColumns_windowAlong {colsum : List Int} (hn : c + n ≤ w) :
    scanColumns w colsum n c (windowAlong w c fun cc => colsum.getD cc 0) =
      (List.range' c n).map fun c => windowAlong w c fun cc => colsum.getD cc 0 := by
  induction n generalizing c with
  | zero => rfl
  | succ n ih =>
    rw [scanColumns, slideRight_windowAlong (by omega) fun _ _ => rfl, ih (by omega), List.range'_succ, List.map_cons]

theorem scanRows_lineBuffer (hn : r + n ≤ d.h) :
    scanRows d n r (lineBuffer d r 0) = (List.range' r n).map (outputRow d) := by
  induction n generalizing r with
  | zero => rfl
  | succ n ih =>
    rw [scanRows, initialWindow_eq_windowAlong, scanColumns_windowAlong (by omega), slideDown_lineBuffer (by omega),
      ih (by omega), List.range'_succ, List.map_cons, outputRow, List.range_eq_range']

/-- The sum of the column sums in the window is the windowed sum. -/
theorem outputRow_eq_windowSumAt : outputRow d r = (List.range d.w).map (windowSumAt d r) := by
  refine List.map_congr_left fun c hc => ?_
  have hw : 0 < d.w := Nat.zero_lt_of_lt (List.mem_range.mp hc)
  rw [windowSumAt_eq, windowAlong_comm]
  refine windowAlong_congr hw fun cc hcc => ?_
  rw [lineBuffer_getD hcc, if_neg (Nat.not_lt_zero cc), columnSum]

/-- The output rows of a schedule that gives `outputRow` at every row are the windowed sum. -/
theorem map_outputRow_eq_windowSum_rows : (List.range' 0 d.h).map (outputRow d) = (windowSum d).rows := by
  rw [← List.range_eq_range']
  exact List.map_congr_left fun _ _ => outputRow_eq_windowSumAt

/-- The accumulator computes the windowed sum (rules R164, R166 to R169). -/
theorem slidingWindow_eq_windowSum (d : Plane) : slidingWindow d = windowSum d := by
  rw [slidingWindow, initialColumns_eq_lineBuffer, scanRows_lineBuffer (Nat.le_of_eq (Nat.zero_add _)),
    map_outputRow_eq_windowSum_rows]
  rfl

end

/-- Settles O18: the invariants I1 and I2 along the scan, and five terms in each of two windows. -/
theorem slidingAccumulatorIsTheWindowedSum : Obligations.SlidingAccumulatorIsTheWindowedSum := by
  refine ⟨fun d => ⟨slidingWindow_eq_windowSum d, fun r c hr hc => ?_⟩, fun d m hm h r c hr hc => ?_⟩
  · rw [slidingWindow_eq_windowSum, windowSum_sample hr hc, windowSumAt_eq_neighbourhoodSum hr hc]
  · rw [slidingWindow_eq_windowSum, windowSum_sample hr hc]
    exact windowSumAt_bounds hm hm h hr hc

/-! ### The fused schedule -/

section
variable {d : Plane} {r c k n : Nat}

/-- Advancing column `k` in place moves the border of the advanced columns on by one (rule R170). -/
theorem advanceColumn_lineBuffer (hr : r < d.h) (hk : k < d.w) :
    advanceColumn d r k (lineBuffer d r k) = lineBuffer d r (k + 1) := by
  rw [advanceColumn, lineBuffer_getD hk, if_neg (Nat.lt_irrefl k), slideDownColumn_columnSum hr]
  refine List.ext_getElem (by simp [lineBuffer]) fun c _ _ => ?_
  simp only [lineBuffer, List.getElem_set, List.getElem_map, List.getElem_range]
  split
  · next heq => rw [← heq, if_pos (Nat.lt_succ_self k)]
  · next hne =>
    have hiff : c < k ↔ c < k + 1 := by omega
    simp only [hiff]

theorem advanceRest_lineBuffer (hr : r < d.h) (hn : k + n ≤ d.w) :
    advanceRest d r n k (lineBuffer d r k) = lineBuffer d r (k + n) := by
  induction n generalizing k with
  | zero => rfl
  | succ n ih =>
    rw [advanceRest, advanceColumn_lineBuffer hr (by omega), ih (by omega), Nat.add_right_comm, Nat.add_assoc]

/-- The clean-up of the last two columns ends the row with every column advanced (rule R170). -/
theorem advanceRest_last_two (hr : r < d.h) :
    advanceRest d r (d.w - (d.w - 2)) (d.w - 2) (lineBuffer d r (d.w - 2)) = lineBuffer d (r + 1) 0 := by
  have hend : d.w - 2 + (d.w - (d.w - 2)) = d.w := by omega
  rw [advanceRest_lineBuffer hr (Nat.le_of_eq hend), hend, lineBuffer_full]

/-- The fused step at column `c` leaves the columns before `c − 1` advanced, column `c − 2` after its last use (rule
R170). -/
theorem advanceColumn_behind (hr : r < d.h) (hc : c < d.w) :
    (if 2 ≤ c then advanceColumn d r (c - 2) (lineBuffer d r (c - 2)) else lineBuffer d r (c - 2)) =
      lineBuffer d r (c + 1 - 2) := by
  split
  · rw [advanceColumn_lineBuffer hr (by omega)]
    congr 1
    omega
  · congr 1
    omega

theorem fusedColumns_lineBuffer (hr : r < d.h) (hn : c + n ≤ d.w) :
    fusedColumns d r n c (windowAlong d.w c fun cc => (lineBuffer d r 0).getD cc 0) (lineBuffer d r (c - 2)) =
      ((List.range' c n).map fun c => windowAlong d.w c fun cc => (lineBuffer d r 0).getD cc 0,
        lineBuffer d r (c + n - 2)) := by
  induction n generalizing c with
  | zero => rfl
  | succ n ih =>
    rw [fusedColumns, slideRight_windowAlong (by omega) fun j hj => lineBuffer_getD_of_le hj,
      advanceColumn_behind hr (by omega), ih (by omega), List.range'_succ, List.map_cons, Nat.add_right_comm,
      Nat.add_assoc]

theorem fusedRows_lineBuffer (hn : r + n ≤ d.h) :
    fusedRows d n r (lineBuffer d r 0) = (List.range' r n).map (outputRow d) := by
  induction n generalizing r with
  | zero => rfl
  | succ n ih =>
    have hr : r < d.h := by omega
    have hscan := fusedColumns_lineBuffer (c := 0) hr (Nat.le_of_eq (Nat.zero_add d.w))
    rw [Nat.zero_sub, Nat.zero_add] at hscan
    rw [fusedRows, initialWindow_eq_windowAlong, hscan, advanceRest_last_two hr, ih (by omega), List.range'_succ,
      List.map_cons, outputRow, List.range_eq_range']

/-- The fused schedule computes the windowed sum (rule R170). -/
theorem fusedWindow_eq_windowSum (d : Plane) : fusedWindow d = windowSum d := by
  rw [fusedWindow, initialColumns_eq_lineBuffer, fusedRows_lineBuffer (Nat.le_of_eq (Nat.zero_add _)),
    map_outputRow_eq_windowSum_rows]
  rfl

end

/-- Settles O19: both schedules compute the windowed sum. -/
theorem fusedScheduleAgrees : Obligations.FusedScheduleAgrees := fun d =>
  ⟨(fusedWindow_eq_windowSum d).trans (slidingWindow_eq_windowSum d).symm, fusedWindow_eq_windowSum d⟩

/-! ### Chrominance and gradients -/

section
variable {mos g gV gH ch : Plane} {m : Int} {r c : Nat}

@[simp] theorem chrominance_h : (chrominance mos g).h = mos.h := rfl

@[simp] theorem chrominance_w : (chrominance mos g).w = mos.w := rfl

@[simp] theorem gradientH_h : (gradientH ch).h = ch.h := rfl

@[simp] theorem gradientH_w : (gradientH ch).w = ch.w := rfl

@[simp] theorem gradientV_h : (gradientV ch).h = ch.h := rfl

@[simp] theorem gradientV_w : (gradientV ch).w = ch.w := rfl

@[simp] theorem gradientDiff_h : (gradientDiff mos gV gH).h = mos.h := rfl

@[simp] theorem gradientDiff_w : (gradientDiff mos gV gH).w = mos.w := rfl

/-- Rule R161. -/
theorem chrominance_sample (hr : r < mos.h) (hc : c < mos.w) :
    (chrominance mos g).sample r c = ((mos.sample r c - g.sample r c).natAbs : Int) :=
  (Plane.tabulate_sample _ hr hc).trans (absInt_eq_natAbs _)

/-- Rule R162, along the row. -/
theorem gradientH_sample (hr : r < ch.h) (hc : c < ch.w) : (gradientH ch).sample r c =
    if c + 2 < ch.w then ((ch.sample r c - ch.sample r (c + 2)).natAbs : Int) else ch.sample r c := by
  rw [gradientH, Plane.tabulate_sample _ hr hc, absInt_eq_natAbs]

/-- Rule R162, along the column. -/
theorem gradientV_sample (hr : r < ch.h) (hc : c < ch.w) : (gradientV ch).sample r c =
    if r + 2 < ch.h then ((ch.sample r c - ch.sample (r + 2) c).natAbs : Int) else ch.sample r c := by
  rw [gradientV, Plane.tabulate_sample _ hr hc, absInt_eq_natAbs]

/-- Rule R163. -/
theorem gradientDiff_sample (hr : r < mos.h) (hc : c < mos.w) : (gradientDiff mos gV gH).sample r c =
    (gradientH (chrominance mos gH)).sample r c - (gradientV (chrominance mos gV)).sample r c :=
  Plane.tabulate_sample _ hr hc

theorem natAbs_sub_inRange {a b : Int} (ha : 0 ≤ a ∧ a ≤ m) (hb : 0 ≤ b ∧ b ≤ m) :
    0 ≤ ((a - b).natAbs : Int) ∧ ((a - b).natAbs : Int) ≤ m := by omega

theorem chrominance_nonneg (hr : r < mos.h) (hc : c < mos.w) : 0 ≤ (chrominance mos g).sample r c := by
  rw [chrominance_sample hr hc]
  exact Int.natCast_nonneg _

theorem chrominance_samplesIn (hh : g.h = mos.h) (hw : g.w = mos.w) (hmos : SamplesIn mos m) (hg : SamplesIn g m) :
    SamplesIn (chrominance mos g) m := by
  intro r c (hr : r < mos.h) (hc : c < mos.w)
  rw [chrominance_sample hr hc]
  exact natAbs_sub_inRange (hmos r c hr hc) (hg r c (hh ▸ hr) (hw ▸ hc))

/-- An estimate that is the mosaic has no chrominance. -/
theorem chrominance_samplesIn_zero (h : ∀ r c, r < mos.h → c < mos.w → g.sample r c = mos.sample r c) :
    SamplesIn (chrominance mos g) 0 := by
  intro r c (hr : r < mos.h) (hc : c < mos.w)
  rw [chrominance_sample hr hc, h r c hr hc, Int.sub_self]
  exact ⟨Int.le_refl 0, Int.le_refl 0⟩

theorem gradientH_samplesIn (h : SamplesIn ch m) : SamplesIn (gradientH ch) m := by
  intro r c (hr : r < ch.h) (hc : c < ch.w)
  rw [gradientH_sample hr hc]
  split
  · next hin => exact natAbs_sub_inRange (h r c hr hc) (h r (c + 2) hr hin)
  · exact h r c hr hc

theorem gradientV_samplesIn (h : SamplesIn ch m) : SamplesIn (gradientV ch) m := by
  intro r c (hr : r < ch.h) (hc : c < ch.w)
  rw [gradientV_sample hr hc]
  split
  · next hin => exact natAbs_sub_inRange (h r c hr hc) (h (r + 2) c hin hc)
  · exact h r c hr hc

/-- The difference is between minus the bound of the vertical and the bound of the horizontal chrominance. -/
theorem gradientDiff_bounds {mV mH : Int} (hV : SamplesIn (chrominance mos gV) mV)
    (hH : SamplesIn (chrominance mos gH) mH) (hr : r < mos.h) (hc : c < mos.w) :
    -mV ≤ (gradientDiff mos gV gH).sample r c ∧ (gradientDiff mos gV gH).sample r c ≤ mH := by
  have hgradH := gradientH_samplesIn hH r c hr hc
  have hgradV := gradientV_samplesIn hV r c hr hc
  rw [gradientDiff_sample hr hc]
  omega

end

/-! ### The compositions of primitives -/

section
variable {mos g ch gV gH : Plane}

theorem mapPlane_tabulate (f : Int → Int) (h w : Nat) (x : Nat → Nat → Int) :
    mapPlane f (Plane.tabulate h w x) = Plane.tabulate h w fun r c => f (x r c) :=
  Plane.tabulate_congr fun _ _ hr hc => congrArg f (Plane.tabulate_sample x hr hc)

/-- `Sub` of two planes of one shape is the difference sample by sample (rule R116). -/
theorem subPlanes_of_sameShape {b1 b2 : Operand} (h : sameShape b1.value b2.value = true) :
    subPlanes b1 b2 = some (Plane.tabulate b1.value.h b1.value.w fun r c =>
      b1.value.sample r c - b2.value.sample r c) :=
  shiftedCombine_zero_offset.trans (zipPlanes_of_sameShape h)

theorem chrominance_eq_primitives (hh : g.h = mos.h) (hw : g.w = mos.w) :
    (subPlanes ⟨0, widen mos⟩ ⟨1, widen g⟩).map absPlane = some (chrominance mos g) := by
  rw [subPlanes_of_sameShape (sameShape_iff.mpr ⟨hh.symm, hw.symm⟩), Option.map_some, absPlane, mapPlane_tabulate]
  refine congrArg some (Plane.tabulate_congr fun r c (hr : r < mos.h) (hc : c < mos.w) => ?_)
  simp only [widen, mapPlane_sample _ hr hc, mapPlane_sample _ (hh ▸ hr) (hw ▸ hc)]

/-- Where the shifted sample is out of bounds the absolute value leaves the sample, which is not negative (rule
R162). -/
theorem abs_shiftedCombine_sub {a b : Nat} (hab : a ≠ b) (h0 : ∀ r c, r < ch.h → c < ch.w → 0 ≤ ch.sample r c)
    (dx dy : Int) :
    (shiftedCombine .sub ⟨a, ch⟩ ⟨b, ch⟩ dx dy).map absPlane = some (Plane.tabulate ch.h ch.w fun r c =>
      if ch.inBounds (r + dx) (c + dy) then absInt (ch.sample r c - ch.sample (r + dx).toNat (c + dy).toNat)
      else ch.sample r c) := by
  have hshape : sameShape ch ch = true := sameShape_iff.mpr ⟨rfl, rfl⟩
  rw [shiftedCombine_of_sameShape hshape fun hid => absurd hid hab, Option.map_some, absPlane,
    mapPlane_tabulate]
  refine congrArg some (Plane.tabulate_congr fun r c hr hc => ?_)
  split
  · next hin => rw [combineSample_inside hin, CombineOp.apply]
  · next hout => rw [combineSample_outside hout, absInt, if_neg (Int.not_lt.mpr (h0 r c hr hc))]

theorem gradientH_eq_primitives {a b : Nat} (hab : a ≠ b) (h0 : ∀ r c, r < ch.h → c < ch.w → 0 ≤ ch.sample r c) :
    (shiftedCombine .sub ⟨a, ch⟩ ⟨b, ch⟩ 0 2).map absPlane = some (gradientH ch) := by
  rw [abs_shiftedCombine_sub hab h0]
  refine congrArg some (Plane.tabulate_congr fun r c hr hc => ite_congr ?_ (fun _ => ?_) fun _ => rfl)
  · rw [Plane.inBounds_iff]
    exact propext (by omega)
  · rw [Int.add_zero, Int.toNat_natCast]
    rfl

theorem gradientV_eq_primitives {a b : Nat} (hab : a ≠ b) (h0 : ∀ r c, r < ch.h → c < ch.w → 0 ≤ ch.sample r c) :
    (shiftedCombine .sub ⟨a, ch⟩ ⟨b, ch⟩ 2 0).map absPlane = some (gradientV ch) := by
  rw [abs_shiftedCombine_sub hab h0]
  refine congrArg some (Plane.tabulate_congr fun r c hr hc => ite_congr ?_ (fun _ => ?_) fun _ => rfl)
  · rw [Plane.inBounds_iff]
    exact propext (by omega)
  · rw [Int.add_zero, Int.toNat_natCast]
    rfl

end

/-- Settles O17. -/
theorem classifierInputsAreGradientDifferences : Obligations.ClassifierInputsAreGradientDifferences := by
  refine ⟨fun m mos gV gH r c hVh hVw hHh hHw hmos hgV hgH hr hc => ?_, fun mos g hh hw => ?_,
    fun mos gV gH hVh hVw hHh hHw => ?_⟩
  · have hchromV : SamplesIn (chrominance mos gV) m := chrominance_samplesIn hVh hVw hmos hgV
    have hchromH : SamplesIn (chrominance mos gH) m := chrominance_samplesIn hHh hHw hmos hgH
    exact ⟨chrominance_sample hr hc, hchromV, gradientH_sample hr hc, gradientV_sample hr hc,
      gradientH_samplesIn hchromH, gradientV_samplesIn hchromV, gradientDiff_sample hr hc,
      gradientDiff_bounds hchromV hchromH hr hc⟩
  · have h0 : ∀ r c, r < mos.h → c < mos.w → 0 ≤ (chrominance mos g).sample r c := fun _ _ => chrominance_nonneg
    exact ⟨chrominance_eq_primitives hh hw, gradientH_eq_primitives (by decide) h0,
      gradientV_eq_primitives (by decide) h0⟩
  · exact subPlanes_of_sameShape (sameShape_iff.mpr ⟨rfl, rfl⟩)

/-! ### Edge mosaics -/

section
variable {m : Int} {p : Pattern} {d : Direction} {mos : Plane} {f : Nat → Int} {h w r c : Nat}

/-- A pass reproduces a sample that its estimate reproduces. -/
theorem fir_sample_of_estimate (hr : r < mos.h) (hc : c < mos.w) (hest : siteEstimate m mos d r c = mos.sample r c) :
    (fir m p d mos).sample r c = mos.sample r c := by
  cases hg : isGreen p r c with
  | true => exact fir_sample_green hr hc hg
  | false => rw [fir_sample_offGreen hr hc hg, hest]

theorem pipelineClassifier_sample (hr : r < mos.h) (hc : c < mos.w) : (pipelineClassifier m p mos).sample r c =
    windowSumAt (gradientDiff mos (fir m p .vertical mos) (fir m p .horizontal mos)) r c := by
  rw [pipelineClassifier, slidingWindow_eq_windowSum]
  exact windowSum_sample hr hc

theorem chrominance_fir_samplesIn (hm : 0 ≤ m) (hmos : SamplesIn mos m) :
    SamplesIn (chrominance mos (fir m p d mos)) m :=
  chrominance_samplesIn fir_h fir_w hmos (fir_samplesIn hm hmos)

/-- The two chrominances bound the classifier, the vertical one from below and the horizontal one from above. -/
theorem pipelineClassifier_bounds {mV mH : Int} (hmV : 0 ≤ mV) (hmH : 0 ≤ mH)
    (hV : SamplesIn (chrominance mos (fir m p .vertical mos)) mV)
    (hH : SamplesIn (chrominance mos (fir m p .horizontal mos)) mH) (hr : r < mos.h) (hc : c < mos.w) :
    -(25 * mV) ≤ (pipelineClassifier m p mos).sample r c ∧ (pipelineClassifier m p mos).sample r c ≤ 25 * mH := by
  rw [pipelineClassifier_sample hr hc]
  exact windowSumAt_bounds hmV hmH (fun rr cc hrr hcc => gradientDiff_bounds hV hH hrr hcc) hr hc

/-- Without vertical chrominance the classifier is nowhere negative (rule R172). -/
theorem pipelineClassifier_nonneg (hm : 0 ≤ m) (hmos : SamplesIn mos m)
    (hV : ∀ r c, r < mos.h → c < mos.w → (fir m p .vertical mos).sample r c = mos.sample r c) (hr : r < mos.h)
    (hc : c < mos.w) : 0 ≤ (pipelineClassifier m p mos).sample r c :=
  (pipelineClassifier_bounds (Int.le_refl 0) hm (chrominance_samplesIn_zero hV) (chrominance_fir_samplesIn hm hmos)
    hr hc).1

/-- Without horizontal chrominance the classifier is nowhere positive (rule R172). -/
theorem pipelineClassifier_nonpos (hm : 0 ≤ m) (hmos : SamplesIn mos m)
    (hH : ∀ r c, r < mos.h → c < mos.w → (fir m p .horizontal mos).sample r c = mos.sample r c) (hr : r < mos.h)
    (hc : c < mos.w) : (pipelineClassifier m p mos).sample r c ≤ 0 :=
  (pipelineClassifier_bounds hm (Int.le_refl 0) (chrominance_fir_samplesIn hm hmos) (chrominance_samplesIn_zero hH)
    hr hc).2

theorem tabulate_samplesIn {x : Nat → Nat → Int} (hx : ∀ r c, 0 ≤ x r c ∧ x r c ≤ m) :
    SamplesIn (Plane.tabulate h w x) m := by
  intro r c (hr : r < h) (hc : c < w)
  rw [Plane.tabulate_sample x hr hc]
  exact hx r c

/-- The vertical pass reproduces a mosaic that depends on the column only (rule R172). -/
theorem fir_vertical_of_columns (hf : ∀ n, 0 ≤ f n ∧ f n ≤ m) (hr : r < h) (hc : c < w) :
    (fir m p .vertical (Plane.tabulate h w fun _ cc => f cc)).sample r c =
      (Plane.tabulate h w fun _ cc => f cc).sample r c := by
  refine fir_sample_of_estimate hr hc ?_
  rw [Plane.tabulate_sample _ hr hc]
  exact estimate_of_constant (hf c).1 (hf c).2 hr fun q hq => Plane.tabulate_sample _ hq hc

/-- The horizontal pass reproduces a mosaic that depends on the row only (rule R172). -/
theorem fir_horizontal_of_rows (hf : ∀ n, 0 ≤ f n ∧ f n ≤ m) (hr : r < h) (hc : c < w) :
    (fir m p .horizontal (Plane.tabulate h w fun rr _ => f rr)).sample r c =
      (Plane.tabulate h w fun rr _ => f rr).sample r c := by
  refine fir_sample_of_estimate hr hc ?_
  rw [Plane.tabulate_sample _ hr hc]
  exact estimate_of_constant (hf r).1 (hf r).2 hc fun q hq => Plane.tabulate_sample _ hr hq

end

/-- Settles O20: the pass along the edge reproduces the mosaic, so one of the two gradients is 0. -/
theorem edgeMosaicsGiveTheClassifierItsSign : Obligations.EdgeMosaicsGiveTheClassifierItsSign := by
  intro m p h w f hf r c hr hc
  have hm : 0 ≤ m := Int.le_trans (hf 0).1 (hf 0).2
  constructor
  · exact pipelineClassifier_nonneg hm (tabulate_samplesIn fun _ cc => hf cc)
      (fun _ _ => fir_vertical_of_columns hf) hr hc
  · exact pipelineClassifier_nonpos hm (tabulate_samplesIn fun rr _ => hf rr)
      (fun _ _ => fir_horizontal_of_rows hf) hr hc

/-! ### The command `CCD` -/

/-- With the three slots of the shape `DIM` the classifier map is the windowed sum of the difference of the slots
themselves (rules R24, R171). -/
theorem State.classifierPlane_eq {s : State} (hmos : s.shapeOK .mosaic = true) (hV : s.shapeOK .greenV = true)
    (hH : s.shapeOK .greenH = true) : s.classifierPlane =
      windowSum (gradientDiff (s.mem.plane .mosaic) (s.mem.plane .greenV) (s.mem.plane .greenH)) := by
  rw [State.classifierPlane, slidingWindow_eq_windowSum, State.input_eq_plane hmos, State.input_eq_plane hV,
    State.input_eq_plane hH]

/-- Settles O31. -/
theorem ccdCompletesWithTheWindowedSum : Obligations.CcdCompletesWithTheWindowedSum := by
  refine ⟨by decide, acceptsByItsChecks_of_stageCommand rfl, fun s hready => ?_⟩
  have ⟨_, _, _, hslots⟩ := hready
  rw [← State.classifierPlane_eq (hslots _ (by decide)) (hslots _ (by decide)) (hslots _ (by decide))]
  exact completesWith_of_stageReady (work := classifyStage) rfl (fun _ => rfl) (fun _ => rfl) hready

end Sys2Proof.Machine

/-!
## The merge (43_merge.md)
-/

namespace Sys2Proof.Machine

/-! ### The comparator -/

/-- The comparator is the sign test (rule R191). -/
@[simp] theorem preferH_iff {k : Int} : preferH k = true ↔ k < 0 := decide_eq_true_iff

/-- Zero prefers vertical (rule R191). -/
@[simp] theorem preferV_iff {k : Int} : preferV k = true ↔ 0 ≤ k := decide_eq_true_iff

/-! ### The command `MRG` -/

/-- The merge selects sample by sample by the sign of the classifier (rules R190, R191). -/
theorem mergePlanes_eq_selection (gV gH cls : Plane) : mergePlanes gV gH cls =
    Plane.tabulate gV.h gV.w fun r c => if cls.sample r c < 0 then gH.sample r c else gV.sample r c := by
  simp only [mergePlanes, preferH_iff]

/-- With the three slots of the shape `DIM` the merged green is the selection, at the shape `DIM`, between the slots
themselves (rules R24, R190). -/
theorem State.mergedPlane_eq {s : State} (hV : s.shapeOK .greenV = true) (hH : s.shapeOK .greenH = true)
    (hcls : s.shapeOK .cls = true) : s.mergedPlane =
      Plane.tabulate s.dim.h.toNat s.dim.w.toNat fun r c =>
        if (s.mem.plane .cls).sample r c < 0 then (s.mem.plane .greenH).sample r c
        else (s.mem.plane .greenV).sample r c := by
  rw [State.mergedPlane, mergePlanes_eq_selection, State.input_eq_plane hH, State.input_eq_plane hcls,
    ← State.input_eq_plane hV]
  rfl

/-- Settles O32. -/
theorem mrgCompletesWithTheSelection : Obligations.MrgCompletesWithTheSelection := by
  refine ⟨by decide, acceptsByItsChecks_of_stageCommand rfl, fun _ => ⟨preferH_iff, preferV_iff⟩, fun s hready => ?_⟩
  have ⟨_, _, _, hslots⟩ := hready
  rw [← State.mergedPlane_eq (hslots _ (by decide)) (hslots _ (by decide)) (hslots _ (by decide))]
  exact completesWith_of_stageReady (work := mergeStage) rfl (fun _ => rfl) (fun _ => rfl) hready

end Sys2Proof.Machine

/-!
## The reconstruction of red and blue (44_rb_reconstruct.md)
-/

namespace Sys2Proof.Machine

/-! ### The parities of sites -/

section
variable {p : Pattern} {r c rr cc : Nat}

/-- An odd number of steps leads from green sites to off-green ones and back (rule R12). -/
theorem isGreen_of_odd_steps (h : (r + c + (rr + cc)) % 2 = 1) : isGreen p rr cc = !isGreen p r c := by
  rw [Bool.eq_iff_iff]
  cases p <;> simp [isGreen] <;> omega

/-- An even number of steps keeps a site green or off-green (rule R12). -/
theorem isGreen_of_even_steps (h : (r + c + (rr + cc)) % 2 = 0) : isGreen p rr cc = isGreen p r c := by
  rw [Bool.eq_iff_iff]
  cases p <;> simp [isGreen] <;> omega

/-- The site is a neighbour in the row or in the column (rules R203, R205). -/
def Adjacent (r c rr cc : Nat) : Prop :=
  rr = r ∧ (cc + 1 = c ∨ cc = c + 1) ∨ cc = c ∧ (rr + 1 = r ∨ rr = r + 1)

/-- The neighbours of a green site are off-green, and those of an off-green site green (rule R12). -/
theorem isGreen_of_adjacent (h : Adjacent r c rr cc) : isGreen p rr cc = !isGreen p r c :=
  isGreen_of_odd_steps (by unfold Adjacent at h; omega)

theorem isRedRow_of_odd_steps (h : (r + rr) % 2 = 1) : isRedRow rr = !isRedRow r := by
  rw [Bool.eq_iff_iff]
  simp [isRedRow]
  omega

theorem isRedRow_of_even_steps (h : (r + rr) % 2 = 0) : isRedRow rr = isRedRow r := by
  rw [Bool.eq_iff_iff]
  simp [isRedRow]
  omega

theorem isBlueRow_eq : isBlueRow r = !isRedRow r := by
  rw [Bool.eq_iff_iff]
  simp [isBlueRow, isRedRow]

theorem isRed_iff : isRed p r c = true ↔ isRedRow r = true ∧ isGreen p r c = false := by
  simp [isRed]

theorem isBlue_iff : isBlue p r c = true ↔ isRedRow r = false ∧ isGreen p r c = false := by
  simp [isBlue, isBlueRow_eq]

end

/-! ### Differences at the neighbours of a site -/

section
variable {b1 b2 d : Plane} {δ : Int}

/-- A difference is what it is in bounds, and 0 elsewhere (rule R112). -/
theorem differenceAt_eq {r c : Int}
    (hin : ∀ rr cc : Nat, (rr : Int) = r → (cc : Int) = c → rr < b1.h → cc < b1.w →
      b1.sample rr cc - b2.sample rr cc = δ)
    (hout : b1.inBounds r c = true ∨ δ = 0) : differenceAt b1 b2 r c = δ := by
  unfold differenceAt
  split
  · next h =>
    obtain ⟨hr0, hrh, hc0, hcw⟩ := h
    exact hin _ _ (Int.toNat_of_nonneg hr0) (Int.toNat_of_nonneg hc0) (by omega) (by omega)
  · next h => exact (hout.resolve_left (mt Plane.inBounds_iff.mp h)).symm

/-- The safe get of a plane that holds the difference at the position, if it is in bounds. -/
theorem get0_eq_differenceAt {r c : Int} (hh : b1.h = d.h) (hw : b1.w = d.w)
    (h : ∀ rr cc : Nat, (rr : Int) = r → (cc : Int) = c → rr < d.h → cc < d.w →
      d.sample rr cc = b1.sample rr cc - b2.sample rr cc) : d.get0 r c = differenceAt b1 b2 r c := by
  refine (differenceAt_eq (fun rr cc hrr hcc hr hc => ?_) ?_).symm
  · rw [hh] at hr
    rw [hw] at hc
    rw [← h rr cc hrr hcc hr hc, ← hrr, ← hcc, Plane.get0_inside hr hc]
  · cases hb : d.inBounds r c with
    | true => exact .inl (by rwa [Plane.inBounds, hh, hw])
    | false => exact .inr (Plane.get0_outside hb)

variable {r c : Nat}

/-- Two row neighbours of one difference: both in bounds, or the difference 0 as outside. -/
theorem rowNeighbours_eq_double (hr : r < b1.h)
    (h : ∀ cc, cc + 1 = c ∨ cc = c + 1 → cc < b1.w → b1.sample r cc - b2.sample r cc = δ)
    (hin : 1 ≤ c ∧ c + 1 < b1.w ∨ δ = 0) : rowNeighbours b1 b2 r c = 2 * δ := by
  have hat : ∀ c' : Int, c' + 1 = c ∨ c' = c + 1 → differenceAt b1 b2 r c' = δ := by
    intro c' hc'
    refine differenceAt_eq (fun rr cc hrr hcc _ hw => ?_) (hin.imp_left fun hb => ?_)
    · obtain rfl : rr = r := Int.ofNat.inj hrr
      exact h cc (by omega) hw
    · exact Plane.inBounds_iff.mpr (by omega)
  rw [rowNeighbours, hat _ (by omega), hat _ (by omega)]
  omega

/-- Two column neighbours of one difference: both in bounds, or the difference 0 as outside. -/
theorem columnNeighbours_eq_double (hc : c < b1.w)
    (h : ∀ rr, rr + 1 = r ∨ rr = r + 1 → rr < b1.h → b1.sample rr c - b2.sample rr c = δ)
    (hin : 1 ≤ r ∧ r + 1 < b1.h ∨ δ = 0) : columnNeighbours b1 b2 r c = 2 * δ := by
  have hat : ∀ r' : Int, r' + 1 = r ∨ r' = r + 1 → differenceAt b1 b2 r' c = δ := by
    intro r' hr'
    refine differenceAt_eq (fun rr cc hrr hcc hh _ => ?_) (hin.imp_left fun hb => ?_)
    · obtain rfl : cc = c := Int.ofNat.inj hcc
      exact h rr (by omega) hh
    · exact Plane.inBounds_iff.mpr (by omega)
  rw [columnNeighbours, hat _ (by omega), hat _ (by omega)]
  omega

/-- An even sum is halved without rounding (rule R117). -/
theorem tdiv2_double (v : Int) : tdiv2 (2 * v) = v := by
  rw [tdiv2_eq_tdiv, Int.mul_tdiv_cancel_left v (by decide)]

end

/-! ### The two planes, site by site -/

section
variable {m : Int} {p : Pattern} {mos g cls : Plane} {r c : Nat}

/-- The chrominance at a position, in bounds or not (rules R112, R201). -/
theorem get0_chromaToGreen (r c : Int) : (chromaToGreen mos g).get0 r c = differenceAt mos g r c :=
  get0_eq_differenceAt rfl rfl fun _ _ _ _ hr hc => Plane.tabulate_sample _ hr hc

theorem rowPair_chromaToGreen : rowPair (chromaToGreen mos g) r c = rowNeighbours mos g r c := by
  simp only [rowPair, get0_chromaToGreen, rowNeighbours]

theorem columnPair_chromaToGreen : columnPair (chromaToGreen mos g) r c = columnNeighbours mos g r c := by
  simp only [columnPair, get0_chromaToGreen, columnNeighbours]

/-- Phase A, red at a green site (rule R203). -/
theorem redPlane_sample_green (hr : r < mos.h) (hc : c < mos.w) (hg : isGreen p r c = true) :
    (redPlane m p mos g cls).sample r c = clampM m (g.sample r c + tdiv2 (
      if isRedRow r then rowNeighbours mos g r c else columnNeighbours mos g r c)) := by
  rw [redPlane, Plane.tabulate_sample _ hr hc, if_pos hg, phaseARed, rowPair_chromaToGreen, columnPair_chromaToGreen]

/-- Phase A, blue at a green site (rule R203). -/
theorem bluePlane_sample_green (hr : r < mos.h) (hc : c < mos.w) (hg : isGreen p r c = true) :
    (bluePlane m p mos g cls).sample r c = clampM m (g.sample r c + tdiv2 (
      if isRedRow r then columnNeighbours mos g r c else rowNeighbours mos g r c)) := by
  rw [bluePlane, Plane.tabulate_sample _ hr hc, if_pos hg, phaseABlue, rowPair_chromaToGreen, columnPair_chromaToGreen]

/-- The red-minus-blue chrominance at a green site is the difference of the two planes (rule R204). -/
theorem redMinusBlue_sample_green (hgh : g.h = mos.h) (hgw : g.w = mos.w) (hr : r < mos.h) (hc : c < mos.w)
    (hg : isGreen p r c = true) :
    (redMinusBlue m p g (chromaToGreen mos g)).sample r c =
      (redPlane m p mos g cls).sample r c - (bluePlane m p mos g cls).sample r c := by
  rw [redMinusBlue, redPlane, bluePlane, Plane.tabulate_sample _ (hgh ▸ hr) (hgw ▸ hc), Plane.tabulate_sample _ hr hc,
    Plane.tabulate_sample _ hr hc, if_pos hg, if_pos hg, if_pos hg]

/-- Phase B reads the red-minus-blue chrominance at green sites only (rules R204, R205). -/
theorem get0_redMinusBlue {r c : Int} (hgh : g.h = mos.h) (hgw : g.w = mos.w)
    (hg : ∀ rr cc : Nat, (rr : Int) = r → (cc : Int) = c → isGreen p rr cc = true) :
    (redMinusBlue m p g (chromaToGreen mos g)).get0 r c =
      differenceAt (redPlane m p mos g cls) (bluePlane m p mos g cls) r c :=
  get0_eq_differenceAt hgh.symm hgw.symm fun _ _ hrr hcc hr hc =>
    redMinusBlue_sample_green hgh hgw (hgh ▸ hr) (hgw ▸ hc) (hg _ _ hrr hcc)

/-- The neighbours of an off-green site are green, so the selected pair is that of the two planes (rule R205). -/
theorem selectedPair_redMinusBlue (hgh : g.h = mos.h) (hgw : g.w = mos.w) (hoff : isGreen p r c = false) :
    selectedPair (redMinusBlue m p g (chromaToGreen mos g)) cls r c =
      if cls.sample r c < 0 then rowNeighbours (redPlane m p mos g cls) (bluePlane m p mos g cls) r c
      else columnNeighbours (redPlane m p mos g cls) (bluePlane m p mos g cls) r c := by
  have hnext : ∀ {r' c' : Int}, (r + c + (r' + c')) % 2 = 1 →
      (redMinusBlue m p g (chromaToGreen mos g)).get0 r' c' =
        differenceAt (redPlane m p mos g cls) (bluePlane m p mos g cls) r' c' := fun hodd =>
    get0_redMinusBlue hgh hgw fun rr cc hrr hcc => by
      rw [isGreen_of_odd_steps (r := r) (c := c) (by omega), hoff, Bool.not_false]
  simp only [selectedPair, preferH_iff]
  refine ite_congr rfl (fun _ => ?_) fun _ => ?_
  · rw [rowPair, rowNeighbours, hnext (by omega), hnext (by omega)]
  · rw [columnPair, columnNeighbours, hnext (by omega), hnext (by omega)]

/-- The known sample of a red site (rule R202). -/
theorem redPlane_sample_red (hr : r < mos.h) (hc : c < mos.w) (hred : isRed p r c = true) :
    (redPlane m p mos g cls).sample r c = mos.sample r c := by
  rw [redPlane, Plane.tabulate_sample _ hr hc, (isRed_iff.mp hred).2, if_neg Bool.false_ne_true, if_pos hred]

/-- The known sample of a blue site (rule R202). -/
theorem bluePlane_sample_blue (hr : r < mos.h) (hc : c < mos.w) (hblue : isBlue p r c = true) :
    (bluePlane m p mos g cls).sample r c = mos.sample r c := by
  rw [bluePlane, Plane.tabulate_sample _ hr hc, (isBlue_iff.mp hblue).2, if_neg Bool.false_ne_true, if_pos hblue]

/-- Phase B, blue at a red site (rule R206). -/
theorem bluePlane_sample_red (hgh : g.h = mos.h) (hgw : g.w = mos.w) (hr : r < mos.h) (hc : c < mos.w)
    (hred : isRed p r c = true) :
    (bluePlane m p mos g cls).sample r c = clampM m (mos.sample r c - tdiv2 (
      if cls.sample r c < 0 then rowNeighbours (redPlane m p mos g cls) (bluePlane m p mos g cls) r c
      else columnNeighbours (redPlane m p mos g cls) (bluePlane m p mos g cls) r c)) := by
  obtain ⟨hrow, hoff⟩ := isRed_iff.mp hred
  have hnot : isBlue p r c = false := by simp [isBlue, isBlueRow_eq, hrow]
  rw [← selectedPair_redMinusBlue hgh hgw hoff, bluePlane, Plane.tabulate_sample _ hr hc, hoff, hnot,
    if_neg Bool.false_ne_true, if_neg Bool.false_ne_true, phaseBBlue]

/-- Phase B, red at a blue site (rule R206). -/
theorem redPlane_sample_blue (hgh : g.h = mos.h) (hgw : g.w = mos.w) (hr : r < mos.h) (hc : c < mos.w)
    (hblue : isBlue p r c = true) :
    (redPlane m p mos g cls).sample r c = clampM m (mos.sample r c + tdiv2 (
      if cls.sample r c < 0 then rowNeighbours (redPlane m p mos g cls) (bluePlane m p mos g cls) r c
      else columnNeighbours (redPlane m p mos g cls) (bluePlane m p mos g cls) r c)) := by
  obtain ⟨hrow, hoff⟩ := isBlue_iff.mp hblue
  have hnot : isRed p r c = false := by simp [isRed, hrow]
  rw [← selectedPair_redMinusBlue hgh hgw hoff, redPlane, Plane.tabulate_sample _ hr hc, hoff, hnot,
    if_neg Bool.false_ne_true, if_neg Bool.false_ne_true, phaseBRed]

/-- A sample that is the mosaic's or clamped is in range. -/
theorem knownOrClamped_inRange {x y v : Int} {green known : Bool} (hm : 0 ≤ m) (hv : 0 ≤ v ∧ v ≤ m) :
    0 ≤ (if green then clampM m x else if known then v else clampM m y) ∧
      (if green then clampM m x else if known then v else clampM m y) ≤ m := by
  split
  · exact ⟨clampM_nonneg hm, clampM_le hm⟩
  split
  · exact hv
  · exact ⟨clampM_nonneg hm, clampM_le hm⟩

theorem redPlane_samplesIn (hm : 0 ≤ m) (hmos : SamplesIn mos m) : SamplesIn (redPlane m p mos g cls) m := by
  intro r c (hr : r < mos.h) (hc : c < mos.w)
  rw [redPlane, Plane.tabulate_sample _ hr hc]
  exact knownOrClamped_inRange hm (hmos r c hr hc)

theorem bluePlane_samplesIn (hm : 0 ≤ m) (hmos : SamplesIn mos m) : SamplesIn (bluePlane m p mos g cls) m := by
  intro r c (hr : r < mos.h) (hc : c < mos.w)
  rw [bluePlane, Plane.tabulate_sample _ hr hc]
  exact knownOrClamped_inRange hm (hmos r c hr hc)

end

/-- Settles O21: the kinds of sites, each by its own lemma. -/
theorem reconstructionFollowsTheTwoPhases : Obligations.ReconstructionFollowsTheTwoPhases := by
  intro m p mos g cls r c hgh hgw hr hc
  refine ⟨fun hred => ⟨redPlane_sample_red hr hc hred, bluePlane_sample_red hgh hgw hr hc hred⟩,
    fun hblue => ⟨bluePlane_sample_blue hr hc hblue, redPlane_sample_blue hgh hgw hr hc hblue⟩,
    fun hg heven => ?_, fun hg hodd => ?_⟩
  · have hrow : isRedRow r = true := by simp [isRedRow, heven]
    rw [redPlane_sample_green hr hc hg, bluePlane_sample_green hr hc hg, if_pos hrow, if_pos hrow]
    exact ⟨rfl, rfl⟩
  · have hrow : ¬isRedRow r = true := by simp [isRedRow, hodd]
    rw [redPlane_sample_green hr hc hg, bluePlane_sample_green hr hc hg, if_neg hrow, if_neg hrow]
    exact ⟨rfl, rfl⟩

/-- Settles O22. -/
theorem reconstructionStaysInRange : Obligations.ReconstructionStaysInRange := fun _ _ _ _ _ hm hmos =>
  ⟨redPlane_samplesIn hm hmos, bluePlane_samplesIn hm hmos⟩

/-! ### Exact reconstruction of two constants -/

/-- The sample that a patch of red `a` and blue `b` has at the off-green sites of a row (rule R208(c)). -/
def rowColour (a b : Int) (r : Nat) : Int := if isRedRow r then a else b

section
variable {a b : Int} {r rr : Nat}

theorem rowColour_of_odd_steps (h : (r + rr) % 2 = 1) : rowColour a b rr = rowColour b a r := by
  rw [rowColour, rowColour, isRedRow_of_odd_steps h]
  cases isRedRow r <;> rfl

theorem rowColour_of_even_steps (h : (r + rr) % 2 = 0) : rowColour a b rr = rowColour a b r := by
  rw [rowColour, rowColour, isRedRow_of_even_steps h]

end

section
variable {m a b x : Int} {p : Pattern} {mos g cls : Plane} {r c : Nat}

/-- The reconstruction gives red `a` and blue `b` at a site. -/
def ReconstructsTo (m : Int) (p : Pattern) (mos g cls : Plane) (a b : Int) (r c : Nat) : Prop :=
  (redPlane m p mos g cls).sample r c = a ∧ (bluePlane m p mos g cls).sample r c = b

/-- Phase A is exact where the neighbours have the chrominance of their row's colour. A missing neighbour counts 0, so
at a border the chrominance must be 0 (rule R208(c)). -/
theorem phaseA_exact (ha : 0 ≤ a ∧ a ≤ m) (hb : 0 ≤ b ∧ b ≤ m) (hr : r < mos.h) (hc : c < mos.w)
    (hg : isGreen p r c = true) (hx : g.sample r c = x)
    (hchroma : ∀ rr cc, rr < mos.h → cc < mos.w → Adjacent r c rr cc →
      mos.sample rr cc - g.sample rr cc = rowColour a b rr - x)
    (hin : Inside mos.h mos.w 1 r c ∨ a = x ∧ b = x) : ReconstructsTo m p mos g cls a b r c := by
  have hrow : rowNeighbours mos g r c = 2 * (rowColour a b r - x) := by
    refine rowNeighbours_eq_double hr (fun cc hcc hw => hchroma r cc hr hw (.inl ⟨rfl, hcc⟩)) (hin.imp ?_ ?_)
    · exact fun ⟨_, _, hc1, hcw⟩ => ⟨hc1, hcw⟩
    · rintro ⟨rfl, rfl⟩
      rw [rowColour, ite_self, Int.sub_self]
  have hcol : columnNeighbours mos g r c = 2 * (rowColour b a r - x) := by
    refine columnNeighbours_eq_double hc (fun rr hrr hh => ?_) (hin.imp ?_ ?_)
    · rw [hchroma rr c hh hc (.inr ⟨rfl, hrr⟩), rowColour_of_odd_steps (r := r) (by omega)]
    · exact fun ⟨hr1, hrh, _, _⟩ => ⟨hr1, hrh⟩
    · rintro ⟨rfl, rfl⟩
      rw [rowColour, ite_self, Int.sub_self]
  have hclamp : ∀ {v : Int}, 0 ≤ v ∧ v ≤ m → clampM m (x + tdiv2 (2 * (v - x))) = v := by
    intro v ⟨h0, hm⟩
    rw [tdiv2_double, Int.add_comm, Int.sub_add_cancel, clampM_of_inRange h0 hm]
  rw [ReconstructsTo, redPlane_sample_green hr hc hg, bluePlane_sample_green hr hc hg, hx, hrow, hcol, rowColour,
    rowColour]
  cases isRedRow r with
  | true => exact ⟨hclamp ha, hclamp hb⟩
  | false => exact ⟨hclamp ha, hclamp hb⟩

/-- Phase B is exact where phase A was at the neighbours, whatever pair the classifier selects. A missing neighbour
counts 0, so at a border the two constants must be one (rule R208(c)). -/
theorem phaseB_exact (ha : 0 ≤ a ∧ a ≤ m) (hb : 0 ≤ b ∧ b ≤ m) (hgh : g.h = mos.h) (hgw : g.w = mos.w)
    (hr : r < mos.h) (hc : c < mos.w) (hoff : isGreen p r c = false) (hmos : mos.sample r c = rowColour a b r)
    (hphaseA : ∀ rr cc, rr < mos.h → cc < mos.w → Adjacent r c rr cc → isGreen p rr cc = true →
      ReconstructsTo m p mos g cls a b rr cc)
    (hin : Inside mos.h mos.w 1 r c ∨ a = b) : ReconstructsTo m p mos g cls a b r c := by
  have hnext : ∀ rr cc, rr < mos.h → cc < mos.w → Adjacent r c rr cc →
      (redPlane m p mos g cls).sample rr cc - (bluePlane m p mos g cls).sample rr cc = a - b := by
    intro rr cc hh hw hadj
    obtain ⟨hred, hblue⟩ := hphaseA rr cc hh hw hadj (by rw [isGreen_of_adjacent hadj, hoff, Bool.not_false])
    rw [hred, hblue]
  have hrow : rowNeighbours (redPlane m p mos g cls) (bluePlane m p mos g cls) r c = 2 * (a - b) :=
    rowNeighbours_eq_double hr (fun cc hcc hw => hnext r cc hr hw (.inl ⟨rfl, hcc⟩))
      (hin.imp (fun ⟨_, _, hc1, hcw⟩ => ⟨hc1, hcw⟩) Int.sub_eq_zero_of_eq)
  have hcol : columnNeighbours (redPlane m p mos g cls) (bluePlane m p mos g cls) r c = 2 * (a - b) :=
    columnNeighbours_eq_double hc (fun rr hrr hh => hnext rr c hh hc (.inr ⟨rfl, hrr⟩))
      (hin.imp (fun ⟨hr1, hrh, _, _⟩ => ⟨hr1, hrh⟩) Int.sub_eq_zero_of_eq)
  cases hkind : isRedRow r with
  | true =>
    have hred : isRed p r c = true := isRed_iff.mpr ⟨hkind, hoff⟩
    have hcolour : mos.sample r c = a := by rw [hmos, rowColour, if_pos hkind]
    refine ⟨(redPlane_sample_red hr hc hred).trans hcolour, ?_⟩
    rw [bluePlane_sample_red hgh hgw hr hc hred, hrow, hcol, ite_self, tdiv2_double, hcolour, Int.sub_sub_self,
      clampM_of_inRange hb.1 hb.2]
  | false =>
    have hblue : isBlue p r c = true := isBlue_iff.mpr ⟨hkind, hoff⟩
    have hcolour : mos.sample r c = b := by rw [hmos, rowColour, hkind, if_neg Bool.false_ne_true]
    refine ⟨?_, (bluePlane_sample_blue hr hc hblue).trans hcolour⟩
    rw [redPlane_sample_blue hgh hgw hr hc hblue, hrow, hcol, ite_self, tdiv2_double, hcolour, Int.add_comm, Int.sub_add_cancel,
      clampM_of_inRange ha.1 ha.2]

end

/-! ### Flat mosaics -/

section
variable {m v : Int} {p : Pattern} {cls : Plane} {h w r c : Nat}

theorem eq_flatPlane {b : Plane} (hb : b.wellShaped = true) (hv : ∀ r c, r < b.h → c < b.w → b.sample r c = v) :
    b = flatPlane b.h b.w v :=
  (Plane.eq_tabulate hb).trans (Plane.tabulate_congr hv)

/-- Both passes reproduce the mosaic, so the classifier is neither negative nor positive (rule R171(c)). -/
theorem pipelineClassifier_flatPlane (h0 : 0 ≤ v) (hv : v ≤ m) :
    pipelineClassifier m p (flatPlane h w v) = flatPlane h w 0 := by
  have hm : 0 ≤ m := Int.le_trans h0 hv
  have hmos : SamplesIn (flatPlane h w v) m := tabulate_samplesIn fun _ _ => ⟨h0, hv⟩
  have hfir : ∀ d r c, r < h → c < w →
      (fir m p d (flatPlane h w v)).sample r c = (flatPlane h w v).sample r c := fun d _ _ _ _ => by
    rw [fir_flatPlane h0 hv]
  rw [pipelineClassifier, slidingWindow_eq_windowSum]
  refine Plane.tabulate_congr fun r c (hr : r < h) (hc : c < w) => ?_
  rw [← pipelineClassifier_sample (mos := flatPlane h w v) hr hc]
  exact Int.le_antisymm (pipelineClassifier_nonpos hm hmos (hfir .horizontal) hr hc)
    (pipelineClassifier_nonneg hm hmos (hfir .vertical) hr hc)

theorem pipelineGreen_flatPlane (h0 : 0 ≤ v) (hv : v ≤ m) :
    pipelineGreen m p (flatPlane h w v) = flatPlane h w v := by
  rw [pipelineGreen, fir_flatPlane h0 hv, fir_flatPlane h0 hv]
  refine Plane.tabulate_congr fun r c (hr : r < h) (hc : c < w) => ?_
  rw [ite_self, flatPlane_sample hr hc]

/-- Every difference of the two phases is 0, as at a missing neighbour (rule R208(d)). -/
theorem reconstructsTo_flatPlane (h0 : 0 ≤ v) (hv : v ≤ m) (hr : r < h) (hc : c < w) :
    ReconstructsTo m p (flatPlane h w v) (flatPlane h w v) cls v v r c := by
  have hphaseA : ∀ r c, r < h → c < w → isGreen p r c = true →
      ReconstructsTo m p (flatPlane h w v) (flatPlane h w v) cls v v r c := fun r c hr hc hg =>
    phaseA_exact ⟨h0, hv⟩ ⟨h0, hv⟩ hr hc hg (flatPlane_sample hr hc)
      (fun rr cc _ _ _ => by rw [rowColour, ite_self, Int.sub_self, Int.sub_self]) (.inr ⟨rfl, rfl⟩)
  cases hg : isGreen p r c with
  | true => exact hphaseA r c hr hc hg
  | false =>
    exact phaseB_exact ⟨h0, hv⟩ ⟨h0, hv⟩ rfl rfl hr hc hg (by rw [flatPlane_sample hr hc, rowColour, ite_self])
      (fun rr cc hh hw _ => hphaseA rr cc hh hw) (.inr rfl)

end

/-- Settles O23: no gradient, and no difference in either phase. -/
theorem flatMosaicIsReproducedByThePipeline : Obligations.FlatMosaicIsReproducedByThePipeline := by
  intro m v p h w h0 hv
  refine ⟨pipelineClassifier_flatPlane h0 hv, pipelineGreen_flatPlane h0 hv, ?_, ?_⟩
  · rw [pipelineRed, pipelineGreen_flatPlane h0 hv]
    exact eq_flatPlane (Plane.tabulate_wellShaped _ _ _) fun _ _ hr hc => (reconstructsTo_flatPlane h0 hv hr hc).1
  · rw [pipelineBlue, pipelineGreen_flatPlane h0 hv]
    exact eq_flatPlane (Plane.tabulate_wellShaped _ _ _) fun _ _ hr hc => (reconstructsTo_flatPlane h0 hv hr hc).2

/-! ### Constant colour patches -/

section
variable {h w n r c rr cc : Nat}

theorem Inside.lt (hin : Inside h w n r c) : r < h ∧ c < w := by
  unfold Inside at hin
  omega

theorem Inside.mono {k : Nat} (hin : Inside h w n r c) (hk : k ≤ n) : Inside h w k r c := by
  unfold Inside at hin ⊢
  omega

/-- A neighbour is at most one step nearer to every border. -/
theorem Inside.adjacent (hin : Inside h w (n + 1) r c) (hadj : Adjacent r c rr cc) : Inside h w n rr cc := by
  unfold Inside at hin ⊢
  unfold Adjacent at hadj
  omega

end

/-- With all taps in bounds, one value at the odd distances and another at the even ones, the site's own included, give
the first: the green of a patch (rule R148(c)). -/
theorem estimate_of_alternating {m v : Int} {n pos : Nat} {x : Nat → Int} (h0 : 0 ≤ v) (hv : v ≤ m) (h2 : 2 ≤ pos)
    (h3 : pos + 3 ≤ n) (hodd : ∀ q, q < n → (pos + q) % 2 = 1 → x q = v)
    (heven : ∀ q, q < n → (pos + q) % 2 = 0 → x q = x pos) : estimate m n pos x = v := by
  rw [estimate_interior h2 h3, hodd (pos - 1) (by omega) (by omega), hodd (pos + 1) (by omega) (by omega),
    heven (pos - 2) (by omega) (by omega), heven (pos + 2) (by omega) (by omega)]
  have hmean : (2 * v + 2 * v + 2 * x pos - x pos - x pos) / 4 = v := by omega
  rw [hmean, clampM_of_inRange h0 hv]

section
variable {m a g b : Int} {p : Pattern} {d : Direction} {gr cls : Plane} {h w r c : Nat}

theorem patchMosaic_sample_green (hr : r < h) (hc : c < w) (hg : isGreen p r c = true) :
    (patchMosaic p h w a g b).sample r c = g := by
  rw [patchMosaic, Plane.tabulate_sample _ hr hc, if_pos hg]

theorem patchMosaic_sample_offGreen (hr : r < h) (hc : c < w) (hoff : isGreen p r c = false) :
    (patchMosaic p h w a g b).sample r c = rowColour a b r := by
  rw [patchMosaic, Plane.tabulate_sample _ hr hc, hoff, if_neg Bool.false_ne_true, isRed, hoff, Bool.not_false,
    Bool.and_true, rowColour]

/-- Away from the borders every estimate of a patch is its green, in both directions (rule R148(c)). -/
theorem siteEstimate_patchMosaic (h0 : 0 ≤ g) (hm : g ≤ m) (hin : Inside h w 2 r c) (hoff : isGreen p r c = false) :
    siteEstimate m (patchMosaic p h w a g b) d r c = g := by
  obtain ⟨hr2, hrh, hc2, hcw⟩ := id hin
  obtain ⟨hr, hc⟩ := hin.lt
  have hodd : ∀ rr cc, rr < h → cc < w → (r + c + (rr + cc)) % 2 = 1 →
      (patchMosaic p h w a g b).sample rr cc = g := fun rr cc hh hw hsteps =>
    patchMosaic_sample_green hh hw (by rw [isGreen_of_odd_steps hsteps, hoff, Bool.not_false])
  have heven : ∀ rr cc, rr < h → cc < w → (r + rr) % 2 = 0 → (c + cc) % 2 = 0 →
      (patchMosaic p h w a g b).sample rr cc = (patchMosaic p h w a g b).sample r c := by
    intro rr cc hh hw hrow hcol
    have hoff' : isGreen p rr cc = false := by rw [isGreen_of_even_steps (r := r) (c := c) (by omega), hoff]
    rw [patchMosaic_sample_offGreen hh hw hoff', patchMosaic_sample_offGreen hr hc hoff, rowColour_of_even_steps hrow]
  cases d with
  | horizontal =>
    exact estimate_of_alternating h0 hm hc2 hcw (fun q hq hsteps => hodd r q hr hq (by omega)) fun q hq hsteps =>
      heven r q hr hq (by omega) hsteps
  | vertical =>
    exact estimate_of_alternating h0 hm hr2 hrh (fun q hq hsteps => hodd q c hq hc (by omega)) fun q hq hsteps =>
      heven q c hq hc hsteps (by omega)

theorem fir_patchMosaic_sample (h0 : 0 ≤ g) (hm : g ≤ m) (hin : Inside h w 2 r c) :
    (fir m p d (patchMosaic p h w a g b)).sample r c = g := by
  obtain ⟨hr, hc⟩ := hin.lt
  cases hg : isGreen p r c with
  | true => rw [fir_sample_green hr hc hg, patchMosaic_sample_green hr hc hg]
  | false => rw [fir_sample_offGreen hr hc hg, siteEstimate_patchMosaic h0 hm hin hg]

/-- The green of a patch is exact at distance 2, whichever pass the classifier selects (rule R208(d)). -/
theorem pipelineGreen_patchMosaic_sample (h0 : 0 ≤ g) (hm : g ≤ m) (hin : Inside h w 2 r c) :
    (pipelineGreen m p (patchMosaic p h w a g b)).sample r c = g := by
  obtain ⟨hr, hc⟩ := hin.lt
  refine (Plane.tabulate_sample _ hr hc).trans ?_
  rw [fir_patchMosaic_sample h0 hm hin, fir_patchMosaic_sample h0 hm hin, ite_self]

/-- With the green exact at distance 2, phase A is exact at distance 3 (rule R208(d)). -/
theorem phaseA_patchMosaic (ha : 0 ≤ a ∧ a ≤ m) (hb : 0 ≤ b ∧ b ≤ m)
    (hgr : ∀ rr cc, Inside h w 2 rr cc → gr.sample rr cc = g) (hin : Inside h w 3 r c) (hg : isGreen p r c = true) :
    ReconstructsTo m p (patchMosaic p h w a g b) gr cls a b r c := by
  obtain ⟨hr, hc⟩ := hin.lt
  refine phaseA_exact ha hb hr hc hg (hgr r c (hin.mono (by decide))) (fun rr cc (hh : rr < h) (hw : cc < w) hadj => ?_)
    (.inl (hin.mono (by decide)))
  have hoff : isGreen p rr cc = false := by rw [isGreen_of_adjacent hadj, hg, Bool.not_true]
  rw [patchMosaic_sample_offGreen hh hw hoff, hgr rr cc (hin.adjacent hadj)]

/-- With the green exact at distance 2, both planes are exact at distance 4 (rule R208(d)). -/
theorem reconstructsTo_patchMosaic (ha : 0 ≤ a ∧ a ≤ m) (hb : 0 ≤ b ∧ b ≤ m) (hgh : gr.h = h) (hgw : gr.w = w)
    (hgr : ∀ rr cc, Inside h w 2 rr cc → gr.sample rr cc = g) (hin : Inside h w 4 r c) :
    ReconstructsTo m p (patchMosaic p h w a g b) gr cls a b r c := by
  obtain ⟨hr, hc⟩ := hin.lt
  cases hg : isGreen p r c with
  | true => exact phaseA_patchMosaic ha hb hgr (hin.mono (by decide)) hg
  | false =>
    exact phaseB_exact ha hb hgh hgw hr hc hg (patchMosaic_sample_offGreen hr hc hg)
      (fun rr cc _ _ hadj => phaseA_patchMosaic ha hb hgr (hin.adjacent hadj)) (.inl (hin.mono (by decide)))

end

/-- Settles O24: the green is exact at distance 2, phase A at 3 and phase B at 4. -/
theorem constantPatchIsExactInside : Obligations.ConstantPatchIsExactInside := by
  intro m a g b p h w r c ha0 ham hg0 hgm hb0 hbm
  exact ⟨pipelineGreen_patchMosaic_sample hg0 hgm, reconstructsTo_patchMosaic ⟨ha0, ham⟩ ⟨hb0, hbm⟩ rfl rfl
    fun _ _ => pipelineGreen_patchMosaic_sample hg0 hgm⟩

/-! ### The command `RRB` -/

/-- With the three slots of the shape `DIM` the stage reconstructs from the slots themselves (rules R24, R207). -/
theorem reconstructStage_mem {s : State} (hmos : s.shapeOK .mosaic = true) (hcls : s.shapeOK .cls = true)
    (hg : s.shapeOK .green = true) : (reconstructStage s).mem =
      { s.mem with
        red := some ⟨s.cfg.sampleBytes,
          redPlane s.cfg.maxSample s.cfg.pattern (s.mem.plane .mosaic) (s.mem.plane .green) (s.mem.plane .cls)⟩
        blue := some ⟨s.cfg.sampleBytes,
          bluePlane s.cfg.maxSample s.cfg.pattern (s.mem.plane .mosaic) (s.mem.plane .green) (s.mem.plane .cls)⟩ } := by
  rw [← State.input_eq_plane hmos, ← State.input_eq_plane hcls, ← State.input_eq_plane hg]
  rfl

/-- Settles O33. -/
theorem rrbCompletes : Obligations.RrbCompletes := by
  refine ⟨by decide, acceptsByItsChecks_of_stageCommand rfl, fun s hready => ?_⟩
  have ⟨_, _, _, hslots⟩ := hready
  rw [← reconstructStage_mem (hslots _ (by decide)) (hslots _ (by decide)) (hslots _ (by decide))]
  exact completesWith_of_stageReady (work := reconstructStage) rfl (fun _ => rfl) (fun _ => rfl) hready

end Sys2Proof.Machine

/-!
## The sequencer and the buffer commands (45_sequencer_and_buffer_commands.md)
-/

namespace Sys2Proof.Machine

/-! ### The stages of `DEMOSAIC` and the commands they are the steps of -/

theorem execTimes_one {i : Instr} {s t : State} (h : exec i s = .next t) : execTimes i 1 s = .next t := by
  simp only [execTimes, h]

/-- One more execution of a command. -/
theorem execTimes_succ {i : Instr} {n : Nat} {s t u : State} (hn : execTimes i n s = .next t)
    (hlast : exec i t = .next u) : execTimes i (n + 1) s = .next u := by
  induction n generalizing s with
  | zero =>
    cases hn
    exact execTimes_one hlast
  | succ n ih =>
    rw [execTimes] at hn ⊢
    cases hfirst : exec i s with
    | next r =>
      rw [hfirst] at hn
      exact ih hn
    | fault | refused =>
      rw [hfirst] at hn
      cases hn

/-- A command that completes takes two executions: its acceptance and its engine step. -/
theorem execTimes_of_completesWith {s : State} {i : Instr} {stage : Stage} {m : Memory}
    (h : CompletesWith s i stage m) : execTimes i 2 s = .next (completedState s i m) := by
  obtain ⟨haccept, hstage⟩ := h
  exact execTimes_succ (execTimes_one haccept) hstage

/-- The slots a command of one stage completes with are those its stage leaves (rule R233). -/
theorem stage_mem_of_completesWith {s : State} {i : Instr} {stage : Stage} {work : State → State} {m : Memory}
    (hexec : ∀ t, exec i t = runSingleStage i stage work t) (h : CompletesWith s i stage m) :
    (work (acceptedState s i stage)).mem = m := by
  obtain ⟨-, hstage⟩ := h
  rw [hexec, runSingleStage_busy rfl] at hstage
  injection hstage with hfinish
  exact congrArg State.mem hfinish

section
variable {s : State} {m : Memory}

/-! Where a command of the sequence completes in a state `s`, the engine step of a `DEMOSAIC` that has come to that
command's stage with the slots of `s` leaves the same slots (rule R231). -/

theorem exec_demosaic_interpolate (h : CompletesWith s .igdVH .interpolate m) :
    exec .demosaic (acceptedState s .demosaic .interpolate) =
      .next (acceptedState (completedState s .igdVH m) .demosaic .classify) := by
  rw [← stage_mem_of_completesWith (work := interpolateVH) (fun _ => rfl) h]
  rfl

theorem exec_demosaic_classify (h : CompletesWith s .ccd .classify m) :
    exec .demosaic (acceptedState s .demosaic .classify) =
      .next (acceptedState (completedState s .ccd m) .demosaic .merge) := by
  rw [← stage_mem_of_completesWith (work := classifyStage) (fun _ => rfl) h]
  rfl

theorem exec_demosaic_merge (h : CompletesWith s .mrg .merge m) :
    exec .demosaic (acceptedState s .demosaic .merge) =
      .next (acceptedState (completedState s .mrg m) .demosaic .reconstruct) := by
  rw [← stage_mem_of_completesWith (work := mergeStage) (fun _ => rfl) h]
  rfl

theorem exec_demosaic_reconstruct (h : CompletesWith s .rrb .reconstruct m) :
    exec .demosaic (acceptedState s .demosaic .reconstruct) =
      .next { completedState s .rrb m with curCmd := encode .demosaic } := by
  rw [← stage_mem_of_completesWith (work := reconstructStage) (fun _ => rfl) h]
  rfl

end

/-! ### The slots after each command of the sequence -/

/-- A slot with the tag and the shape a command gives it is `ShapeOK` (rules R24, R25). -/
theorem State.shapeOK_of_slot {s : State} {k : Slot} {b : Plane} (hslot : s.mem.slot k = some ⟨s.cfg.tagFor k, b⟩)
    (hh : b.h = s.dim.h.toNat) (hw : b.w = s.dim.w.toNat) : s.shapeOK k = true := by
  rw [State.shapeOK, hslot]
  cases hk : k.isWide <;> simp [Cfg.tagFor, hk, hh, hw]

/-- The slots of `s` with the two directional greens of the mosaic. -/
def State.interpolatedSlots (s : State) : Memory :=
  { s.mem with
    greenV := some ⟨s.cfg.sampleBytes, fir s.cfg.maxSample s.cfg.pattern .vertical (s.mem.plane .mosaic)⟩
    greenH := some ⟨s.cfg.sampleBytes, fir s.cfg.maxSample s.cfg.pattern .horizontal (s.mem.plane .mosaic)⟩ }

/-- Those slots with the classifier map of the pipeline. -/
def State.classifiedSlots (s : State) : Memory :=
  { s.interpolatedSlots with
    cls := some ⟨.four, pipelineClassifier s.cfg.maxSample s.cfg.pattern (s.mem.plane .mosaic)⟩ }

/-- Those slots with the merged green of the pipeline. -/
def State.mergedSlots (s : State) : Memory :=
  { s.classifiedSlots with
    green := some ⟨s.cfg.sampleBytes, pipelineGreen s.cfg.maxSample s.cfg.pattern (s.mem.plane .mosaic)⟩ }

/-- Those slots with the red and the blue plane of the pipeline. -/
def State.pipelineSlots (s : State) : Memory :=
  { s.mergedSlots with
    red := some ⟨s.cfg.sampleBytes, pipelineRed s.cfg.maxSample s.cfg.pattern (s.mem.plane .mosaic)⟩
    blue := some ⟨s.cfg.sampleBytes, pipelineBlue s.cfg.maxSample s.cfg.pattern (s.mem.plane .mosaic)⟩ }

section
variable {s : State}

theorem State.plane_h_of_shapeOK {k : Slot} (h : s.shapeOK k = true) : (s.mem.plane k).h = s.dim.h.toNat :=
  (congrArg Plane.h (State.input_eq_plane h)).symm

theorem State.plane_w_of_shapeOK {k : Slot} (h : s.shapeOK k = true) : (s.mem.plane k).w = s.dim.w.toNat :=
  (congrArg Plane.w (State.input_eq_plane h)).symm

theorem StageReady.mosaic_shape (h : StageReady s [.mosaic]) : s.shapeOK .mosaic = true ∧
    (s.mem.plane .mosaic).h = s.dim.h.toNat ∧ (s.mem.plane .mosaic).w = s.dim.w.toNat := by
  obtain ⟨-, -, -, hslots⟩ := h
  have hmosaic := hslots .mosaic List.mem_cons_self
  exact ⟨hmosaic, State.plane_h_of_shapeOK hmosaic, State.plane_w_of_shapeOK hmosaic⟩

/-- A later state of the sequence is idle and has the `CFG` and the `DIM` of `s`, so it is ready for a command whose
input slots have the shape `DIM`. -/
theorem stageReady_completedState {i : Instr} {m : Memory} {slots : List Slot} (h : StageReady s [.mosaic])
    (hslots : ∀ k ∈ slots, (completedState s i m).shapeOK k = true) : StageReady (completedState s i m) slots := by
  obtain ⟨-, hwidth, hdims, -⟩ := h
  exact ⟨rfl, hwidth, hdims, hslots⟩

variable (h : StageReady s [.mosaic])
include h

theorem igdVH_completes_in_sequence : CompletesWith s .igdVH .interpolate s.interpolatedSlots := by
  obtain ⟨-, -, -, -, -, -, hcompletes⟩ := igdCompletes
  obtain ⟨-, -, hVH⟩ := hcompletes s h
  exact hVH

theorem ccd_completes_in_sequence :
    CompletesWith (completedState s .igdVH s.interpolatedSlots) .ccd .classify s.classifiedSlots := by
  obtain ⟨hmosaic, hh, hw⟩ := h.mosaic_shape
  obtain ⟨-, -, hcompletes⟩ := ccdCompletesWithTheWindowedSum
  rw [State.classifiedSlots, pipelineClassifier, slidingWindow_eq_windowSum]
  refine hcompletes _ (stageReady_completedState h ?_)
  simp only [List.mem_cons, List.not_mem_nil, or_false, forall_eq_or_imp, forall_eq]
  exact ⟨hmosaic, State.shapeOK_of_slot rfl hh hw, State.shapeOK_of_slot rfl hh hw⟩

theorem mrg_completes_in_sequence :
    CompletesWith (completedState s .ccd s.classifiedSlots) .mrg .merge s.mergedSlots := by
  obtain ⟨hmosaic, hh, hw⟩ := h.mosaic_shape
  obtain ⟨-, -, -, hcompletes⟩ := mrgCompletesWithTheSelection
  rw [State.mergedSlots, pipelineGreen, mergePlanes_eq_selection, fir_h, fir_w, hh, hw]
  refine hcompletes _ (stageReady_completedState h ?_)
  simp only [List.mem_cons, List.not_mem_nil, or_false, forall_eq_or_imp, forall_eq]
  exact ⟨State.shapeOK_of_slot rfl hh hw, State.shapeOK_of_slot rfl hh hw, State.shapeOK_of_slot rfl hh hw⟩

theorem rrb_completes_in_sequence :
    CompletesWith (completedState s .mrg s.mergedSlots) .rrb .reconstruct s.pipelineSlots := by
  obtain ⟨hmosaic, hh, hw⟩ := h.mosaic_shape
  obtain ⟨-, -, hcompletes⟩ := rrbCompletes
  refine hcompletes _ (stageReady_completedState h ?_)
  simp only [List.mem_cons, List.not_mem_nil, or_false, forall_eq_or_imp, forall_eq]
  exact ⟨hmosaic, State.shapeOK_of_slot rfl hh hw, State.shapeOK_of_slot rfl hh hw⟩

end

/-- Settles O34: before each of its stages `DEMOSAIC` has the slots that the sequence has before the command whose step
the stage is. -/
theorem demosaicCompletesAsTheCommandSequence : Obligations.DemosaicCompletesAsTheCommandSequence := by
  refine ⟨by decide, acceptsByItsChecks_of_stageCommand rfl, fun s hready => ?_⟩
  have higd := igdVH_completes_in_sequence hready
  have hccd := ccd_completes_in_sequence hready
  have hmrg := mrg_completes_in_sequence hready
  have hrrb := rrb_completes_in_sequence hready
  have haccept : exec .demosaic s = .next (acceptedState s .demosaic .interpolate) := exec_of_stageReady rfl hready
  have h2 := execTimes_succ (execTimes_one haccept) (exec_demosaic_interpolate higd)
  have h3 := execTimes_succ h2 (exec_demosaic_classify hccd)
  have h4 := execTimes_succ h3 (exec_demosaic_merge hmrg)
  have h5 := execTimes_succ h4 (exec_demosaic_reconstruct hrrb)
  exact ⟨haccept, ⟨_, h2, rfl⟩, ⟨_, h3, rfl⟩, ⟨_, h4, rfl⟩, h5, _, _, _, _, execTimes_of_completesWith higd,
    execTimes_of_completesWith hccd, execTimes_of_completesWith hmrg, execTimes_of_completesWith hrrb, h5⟩

/-! ### The slots a stage leaves alone -/

/-- A stage's effect on the slots is on the written ones alone. -/
def KeepsOtherSlots (written : List Slot) (work : State → State) : Prop :=
  ∀ s, ∀ k ∉ written, (work s).mem.slot k = s.mem.slot k

section
variable {written more : List Slot} {f g : State → State}

theorem KeepsOtherSlots.comp (hf : KeepsOtherSlots more f) (hg : KeepsOtherSlots written g) :
    KeepsOtherSlots (written ++ more) (fun s => f (g s)) := fun s k hk => by
  rw [List.mem_append, not_or] at hk
  rw [hf (g s) k hk.2, hg s k hk.1]

theorem KeepsOtherSlots.mono (hf : KeepsOtherSlots written f) (hsub : written ⊆ more) : KeepsOtherSlots more f :=
  fun s k hk => hf s k fun hmem => hk (hsub hmem)

end

theorem keepsOtherSlots_setSlot (k : Slot) (content : State → Option Raster) :
    KeepsOtherSlots [k] (fun s => s.setSlot k (content s)) := fun s _ hj =>
  Memory.slot_setSlot_other s.mem (content s) (List.ne_of_not_mem_cons hj)

theorem keepsOtherSlots_construct (k : Slot) (result : State → Plane) :
    KeepsOtherSlots [k] (fun s => s.construct k (result s)) :=
  keepsOtherSlots_setSlot k fun s => some ⟨s.cfg.tagFor k, result s⟩

theorem interpolateV_keepsOtherSlots : KeepsOtherSlots [.greenV] interpolateV := keepsOtherSlots_construct _ _

theorem interpolateH_keepsOtherSlots : KeepsOtherSlots [.greenH] interpolateH := keepsOtherSlots_construct _ _

theorem interpolateVH_keepsOtherSlots : KeepsOtherSlots [.greenV, .greenH] interpolateVH :=
  interpolateH_keepsOtherSlots.comp interpolateV_keepsOtherSlots

theorem classifyStage_keepsOtherSlots : KeepsOtherSlots [.cls] classifyStage := keepsOtherSlots_construct _ _

theorem mergeStage_keepsOtherSlots : KeepsOtherSlots [.green] mergeStage := keepsOtherSlots_construct _ _

/-- The blue plane is computed from the slots before the red one is written, so this is no composition. -/
theorem reconstructStage_keepsOtherSlots : KeepsOtherSlots [.red, .blue] reconstructStage := fun s k hk => by
  simp only [List.mem_cons, List.not_mem_nil, or_false, not_or] at hk
  obtain ⟨hred, hblue⟩ := hk
  simp only [reconstructStage, State.construct_mem]
  rw [Memory.slot_setSlot_other _ _ hblue, Memory.slot_setSlot_other _ _ hred]

theorem allocStage_keepsOtherSlots (d : Slot) : KeepsOtherSlots [d] (allocStage d) := keepsOtherSlots_construct _ _

/-! ### The effects of the buffer commands -/

@[simp] theorem copyStage_self (d : Slot) (s : State) : copyStage d d s = s := if_pos rfl

theorem copyStage_of_slot {d src : Slot} {s : State} {ras : Raster} (hne : d ≠ src)
    (hslot : s.mem.slot src = some ras) : copyStage d src s = s.setSlot d (some (copiedRaster s.cfg d src ras)) := by
  rw [copyStage, if_neg hne, hslot]

theorem copyStage_of_empty {d src : Slot} {s : State} (hslot : s.mem.slot src = none) : copyStage d src s = s := by
  rw [copyStage, hslot, ite_self]

@[simp] theorem moveStage_self (d : Slot) (s : State) : moveStage d d s = s := if_pos rfl

theorem moveStage_of_ne {d src : Slot} (hne : d ≠ src) (s : State) :
    moveStage d src s = (s.setSlot d (s.mem.slot src)).setSlot src none := if_neg hne

theorem copyStage_keepsOtherSlots (d src : Slot) : KeepsOtherSlots [d] (copyStage d src) := fun s k hk => by
  by_cases hne : d = src
  · rw [hne, copyStage_self]
  cases hslot : s.mem.slot src with
  | none => rw [copyStage_of_empty hslot]
  | some ras =>
    rw [copyStage_of_slot hne hslot]
    exact Memory.slot_setSlot_other _ _ (List.ne_of_not_mem_cons hk)

theorem moveStage_keepsOtherSlots (d src : Slot) : KeepsOtherSlots [d, src] (moveStage d src) := by
  by_cases hne : d = src
  · exact fun s k _ => by rw [hne, moveStage_self]
  · rw [funext (moveStage_of_ne hne)]
    exact (keepsOtherSlots_setSlot src fun _ => none).comp (keepsOtherSlots_setSlot d fun s => s.mem.slot src)

theorem freeStage_keepsOtherSlots (d : Slot) : KeepsOtherSlots [d] (freeStage d) := keepsOtherSlots_setSlot d _

/-! ### The kinds of commands -/

/-- `i` is a command of the one stage `firstStage i`, with the effect `work` (rules R230, R233, R234). -/
structure OneStage (i : Instr) (work : State → State) : Prop where
  exec_eq (s : State) : exec i s = runSingleStage i (firstStage i) work s
  stage_eq {st : Stage} (hst : stageOf i st = true) : st = firstStage i
  writesOnlySlots : WritesOnlySlots work
  keepsOtherSlots : KeepsOtherSlots (writtenSlots i) work

theorem oneStage_balloc (d : Slot) : OneStage (.balloc d) (allocStage d) :=
  ⟨fun _ => rfl, beq_iff_eq.mp, fun _ => rfl, allocStage_keepsOtherSlots d⟩

theorem oneStage_bcopy (d src : Slot) : OneStage (.bcopy d src) (copyStage d src) :=
  ⟨fun _ => rfl, beq_iff_eq.mp, copyStage_writesOnlySlots d src, copyStage_keepsOtherSlots d src⟩

theorem oneStage_bmove (d src : Slot) : OneStage (.bmove d src) (moveStage d src) :=
  ⟨fun _ => rfl, beq_iff_eq.mp, moveStage_writesOnlySlots d src, moveStage_keepsOtherSlots d src⟩

theorem oneStage_bfree (d : Slot) : OneStage (.bfree d) (freeStage d) :=
  ⟨fun _ => rfl, beq_iff_eq.mp, fun _ => rfl, freeStage_keepsOtherSlots d⟩

/-- A command has one stage, or is `DEMOSAIC`, or is the reserved one. -/
theorem command_cases (i : Instr) :
    (∃ work, OneStage i work) ∨ i = .demosaic ∨ ∃ payload, i = .refine payload := by
  cases i with
  | igdH => exact .inl ⟨_, fun _ => rfl, beq_iff_eq.mp, fun _ => rfl, interpolateH_keepsOtherSlots⟩
  | igdV => exact .inl ⟨_, fun _ => rfl, beq_iff_eq.mp, fun _ => rfl, interpolateV_keepsOtherSlots⟩
  | igdVH => exact .inl ⟨_, fun _ => rfl, beq_iff_eq.mp, fun _ => rfl, interpolateVH_keepsOtherSlots⟩
  | ccd => exact .inl ⟨_, fun _ => rfl, beq_iff_eq.mp, fun _ => rfl, classifyStage_keepsOtherSlots⟩
  | mrg => exact .inl ⟨_, fun _ => rfl, beq_iff_eq.mp, fun _ => rfl, mergeStage_keepsOtherSlots⟩
  | rrb => exact .inl ⟨_, fun _ => rfl, beq_iff_eq.mp, fun _ => rfl, reconstructStage_keepsOtherSlots⟩
  | demosaic => exact .inr (.inl rfl)
  | balloc d => exact .inl ⟨_, oneStage_balloc d⟩
  | bcopy d src => exact .inl ⟨_, oneStage_bcopy d src⟩
  | bmove d src => exact .inl ⟨_, oneStage_bmove d src⟩
  | bfree d => exact .inl ⟨_, oneStage_bfree d⟩
  | refine payload => exact .inr (.inr ⟨payload, rfl⟩)

/-! ### The frame of the commands -/

theorem execDemosaic_keepsOtherSlots {s t : State} (h : execDemosaic s = .next t) {k : Slot}
    (hk : k ∉ writtenSlots .demosaic) : t.mem.slot k = s.mem.slot k := by
  have hkeep : ∀ {work : State → State} {written : List Slot}, KeepsOtherSlots written work →
      written ⊆ writtenSlots .demosaic → (work s).mem.slot k = s.mem.slot k :=
    fun hwork hsub => hwork.mono hsub s k hk
  obtain ⟨-, rfl⟩ | ⟨-, rfl⟩ | ⟨-, rfl⟩ | ⟨-, rfl⟩ | ⟨-, rfl⟩ | ⟨cause, info, -, rfl⟩ := execDemosaic_cases h
  · rw [State.accept_mem]
  · exact hkeep interpolateVH_keepsOtherSlots (by decide)
  · exact hkeep classifyStage_keepsOtherSlots (by decide)
  · exact hkeep mergeStage_keepsOtherSlots (by decide)
  · exact hkeep reconstructStage_keepsOtherSlots (by decide)
  · rfl

theorem execRefine_mem {s t : State} {payload : BitVec 24} (h : execRefine payload s = .next t) : t.mem = s.mem := by
  unfold execRefine at h
  split at h <;> cases h <;> rfl

theorem OneStage.exec_keepsOtherSlots {i : Instr} {work : State → State} (hi : OneStage i work) {s t : State}
    (h : exec i s = .next t) {k : Slot} (hk : k ∉ writtenSlots i) : t.mem.slot k = s.mem.slot k := by
  rw [hi.exec_eq] at h
  obtain ⟨-, rfl⟩ | ⟨-, rfl⟩ | ⟨cause, info, -, rfl⟩ := runSingleStage_cases h
  · rw [State.accept_mem]
  · exact hi.keepsOtherSlots s k hk
  · rfl

/-- Settles O38: the frame `exec_frame`, and the slots kept by each kind of command. -/
theorem commandsChangeOnlyTheirSlotsAndFlags : Obligations.CommandsChangeOnlyTheirSlotsAndFlags := by
  intro i s t h
  refine ⟨exec_frame i s t h, fun k hk => ?_⟩
  obtain ⟨work, hi⟩ | rfl | ⟨payload, rfl⟩ := command_cases i
  · exact hi.exec_keepsOtherSlots h hk
  · exact execDemosaic_keepsOtherSlots h hk
  · rw [execRefine_mem h]

/-! ### Safety -/

/-- A command answers in an idle and in a faulted engine, and in a busy one at each of its stages (rules R230, R233,
R273). -/
theorem exec_answers {i : Instr} {s : State} (h : ∀ st, s.engine = .busy st → stageOf i st = true) :
    ∃ t, exec i s = .next t := by
  obtain ⟨work, hi⟩ | rfl | ⟨payload, rfl⟩ := command_cases i
  · rw [hi.exec_eq]
    cases he : s.engine with
    | idle => exact ⟨_, runSingleStage_idle he⟩
    | busy st => exact ⟨_, runSingleStage_busy (hi.stage_eq (h st he) ▸ he)⟩
    | faulted cause info => exact ⟨_, runSingleStage_faulted he⟩
  · change ∃ t, execDemosaic s = .next t
    unfold execDemosaic
    split
    case h_6 he => cases h _ he
    all_goals exact ⟨_, rfl⟩
  · change ∃ t, execRefine payload s = .next t
    unfold execRefine
    split
    case h_2 st he => cases h st he
    all_goals exact ⟨_, rfl⟩

/-- A busy engine of the invariant has a command in progress, at one of its stages (rules R36, R44). -/
theorem State.Inv.command_of_busy {s : State} {st : Stage} (h : s.Inv) (hb : s.engine = .busy st) :
    ∃ i, decode s.curCmd = .ok i ∧ stageOf i st = true := by
  obtain ⟨-, -, -, hready⟩ := h
  simp only [engineReady, hb] at hready
  split at hready
  · next i hi => exact ⟨i, hi, (Bool.and_eq_true_iff.mp hready).1⟩
  · cases hready

theorem Engine.isBusy_iff {e : Engine} : e.isBusy = true ↔ ∃ st, e = .busy st := by
  cases e <;> simp [Engine.isBusy]

theorem State.Inv.engineStep_answers {s : State} (h : s.Inv) (hb : s.engine.isBusy = true) :
    ∃ t, engineStep s = .next t := by
  obtain ⟨st, hst⟩ := Engine.isBusy_iff.mp hb
  obtain ⟨i, hi, hstage⟩ := h.command_of_busy hst
  rw [engineStep_of_decode hi]
  refine exec_answers fun st' hst' => ?_
  rw [hst] at hst'
  cases hst'
  exact hstage

theorem State.Inv.dropInput {s : State} (h : s.Inv) : s.dropInput.Inv := h

/-- A write to `CMD` that is not held answers, whatever the word is (rules R97, R98, R230). -/
theorem writeCommand_answers {x : Word} {s : State} (hb : s.engine.isBusy = false) :
    ∃ t, writeCommand x s = .next t := by
  have hne : ∀ st, s.engine ≠ .busy st := fun st he => by simp [he, Engine.isBusy] at hb
  cases hx : decode x with
  | ok i =>
    rw [writeCommand_of_decode hx]
    exact exec_answers fun st he => absurd he (hne st)
  | error e =>
    rw [writeCommand, hx]
    cases he : s.engine with
    | busy st => exact absurd he (hne st)
    | idle | faulted => exact ⟨_, rfl⟩

theorem writeRegister_answers {off : Nat} {d : Word} {s : State} (hb : s.engine.isBusy = false) :
    ∃ t, writeRegister off d s = .next t := by
  obtain ⟨-, hcmd⟩ | ⟨t, ht, -⟩ := writeRegister_cases off d s
  · rw [hcmd]
    exact writeCommand_answers hb
  · exact ⟨t, ht⟩

/-- Settles O58: the ways a step can go, of which only the refused accesses do not answer. -/
theorem stepsFromTheInvariantAreSafe : Obligations.StepsFromTheInvariantAreSafe := by
  intro s hinv
  refine ⟨?_, hinv.engineStep_answers⟩
  have hsafe : ∀ {o : Host.Outcome State Fault Refusal}, (∃ t, o = .next t) → safeOutcome o = true := by
    rintro _ ⟨t, rfl⟩
    rfl
  obtain ⟨-, -, hstep⟩ | ⟨hb, -, hstep⟩ | ⟨hb, -, hstep⟩ | ⟨-, -, hstep⟩ | ⟨-, hstep⟩ | ⟨off, rest, -, -, -, -, hstep⟩ |
    ⟨off, d, rest, -, -, hb, -, hstep⟩ | ⟨why, hwhy, hstep⟩ := step_cases s <;> rw [hstep]
  · rfl
  · exact hsafe (hinv.engineStep_answers hb)
  · exact hsafe (hinv.dropInput.engineStep_answers hb)
  · rfl
  · rfl
  · rfl
  · exact hsafe (writeRegister_answers hb)
  · obtain rfl | rfl := hwhy <;> rfl

/-! ### Completion -/

/-- At most `n` steps lead to `IDLE` with `DONE` set. -/
def FinishesWithin (n : Nat) (s : State) : Prop :=
  ∃ k t, k ≤ n ∧ runSteps k s = .next t ∧ t.engine = .idle ∧ t.done = true

theorem FinishesWithin.of_step {n : Nat} {s t : State} (hstep : step s = .next t) (h : FinishesWithin n t) :
    FinishesWithin (n + 1) s := by
  obtain ⟨k, u, hk, hrun, hidle, hdone⟩ := h
  exact ⟨k + 1, u, Nat.succ_le_succ hk, by rw [runSteps, hstep]; exact hrun, hidle, hdone⟩

theorem finishesWithin_of_finish {n : Nat} {s t : State} (hstep : step s = .next t.finish) :
    FinishesWithin (n + 1) s :=
  .of_step hstep ⟨0, t.finish, Nat.zero_le n, rfl, rfl, rfl⟩

/-- With no access left the engine takes its step of the command in progress (rules R233, R312). -/
theorem step_of_command {s : State} {i : Instr} {st : Stage} (hnil : s.inputs = []) (hst : s.engine = .busy st)
    (hi : decode s.curCmd = .ok i) : step s = exec i s := by
  rw [step_of_noInputs hnil (Engine.isBusy_iff.mpr ⟨st, hst⟩), engineStep_of_decode hi]

theorem OneStage.finishesWithin {i : Instr} {work : State → State} (hwork : OneStage i work) {n : Nat} {s : State}
    {st : Stage} (hnil : s.inputs = []) (hst : s.engine = .busy st) (hi : decode s.curCmd = .ok i)
    (hstage : stageOf i st = true) : FinishesWithin (n + 1) s := by
  have hfirst : s.engine = .busy (firstStage i) := hwork.stage_eq hstage ▸ hst
  have hstep := step_of_command hnil hst hi
  rw [hwork.exec_eq, runSingleStage_busy hfirst] at hstep
  exact finishesWithin_of_finish hstep

/-- `DEMOSAIC` is in progress at a stage, with no access left. -/
structure DemosaicAt (st : Stage) (s : State) : Prop where
  noAccess : s.inputs = []
  atStage : s.engine = .busy st
  command : decode s.curCmd = .ok .demosaic

section
variable {s : State} {n : Nat}

/-- A stage changes neither the command word nor the accesses to come, so the next one follows (rule R231). -/
theorem DemosaicAt.next {st st' : Stage} {work : State → State} (h : DemosaicAt st s) (hwork : WritesOnlySlots work) :
    DemosaicAt st' ((work s).start st') := by
  rw [hwork s]
  exact ⟨h.noAccess, rfl, h.command⟩

theorem DemosaicAt.step_eq {st : Stage} (h : DemosaicAt st s) : step s = execDemosaic s :=
  step_of_command h.noAccess h.atStage h.command

theorem DemosaicAt.finishes_from_reconstruct (h : DemosaicAt .reconstruct s) : FinishesWithin (n + 1) s :=
  finishesWithin_of_finish (t := reconstructStage s) (by rw [h.step_eq, execDemosaic, h.atStage])

theorem DemosaicAt.finishes_from_merge (h : DemosaicAt .merge s) : FinishesWithin (n + 2) s :=
  .of_step (t := (mergeStage s).start .reconstruct) (by rw [h.step_eq, execDemosaic, h.atStage])
    (h.next fun _ => rfl).finishes_from_reconstruct

theorem DemosaicAt.finishes_from_classify (h : DemosaicAt .classify s) : FinishesWithin (n + 3) s :=
  .of_step (t := (classifyStage s).start .merge) (by rw [h.step_eq, execDemosaic, h.atStage])
    (h.next fun _ => rfl).finishes_from_merge

theorem DemosaicAt.finishes_from_interpolate (h : DemosaicAt .interpolate s) : FinishesWithin (n + 4) s :=
  .of_step (t := (interpolateVH s).start .classify) (by rw [h.step_eq, execDemosaic, h.atStage])
    (h.next fun _ => rfl).finishes_from_classify

theorem DemosaicAt.finishesWithin {st : Stage} (h : DemosaicAt st s) (hstage : stageOf .demosaic st = true) :
    FinishesWithin 4 s := by
  cases st with
  | interpolate => exact h.finishes_from_interpolate
  | classify => exact h.finishes_from_classify
  | merge => exact h.finishes_from_merge
  | reconstruct => exact h.finishes_from_reconstruct
  | bufferOp => cases hstage

end

/-- Settles O59: the invariant gives the command in progress, which has one stage or is `DEMOSAIC`. -/
theorem everyCommandFinishes : Obligations.EveryCommandFinishes := by
  intro s hinv hb hnil
  obtain ⟨st, hst⟩ := Engine.isBusy_iff.mp hb
  obtain ⟨i, hi, hstage⟩ := hinv.command_of_busy hst
  obtain ⟨work, hwork⟩ | rfl | ⟨payload, rfl⟩ := command_cases i
  · exact hwork.finishesWithin hnil hst hi hstage
  · exact DemosaicAt.finishesWithin ⟨hnil, hst, hi⟩ hstage
  · cases hstage

/-! ### The acceptance of every command -/

section
variable {s : State} {i : Instr}

theorem firstFault_append (s : State) (a b : List Check) :
    firstFault s (a ++ b) = (firstFault s a).or (firstFault s b) := List.findSome?_append

/-- A check that only some commands make. -/
theorem firstFault_ite (s : State) (made : Bool) (c : Check) :
    firstFault s (if made then [c] else []) = if made then checkFault s c else none := by
  cases made with
  | true => exact (firstFault_cons s c []).trans (Option.or_none ..)
  | false => rfl

/-- The buffer commands check that their source is valid, and no shape (rule R271, check 4). -/
theorem firstFault_hasBuf (s : State) (slots : List Slot) :
    firstFault s (slots.map .hasBuf) = slotFault s false slots := by
  induction slots with
  | nil => rfl
  | cons k rest ih =>
    rw [List.map_cons, firstFault_cons, ih, slotFault, ← slotInfo_eq]
    cases hm : s.mem.slot k <;> simp [checkFault, Memory.valid, hm]

/-- The buffer commands and the reserved one by their columns in the table of rule R234. -/
theorem acceptanceChecks_columns (hi : isStageCommand i = false) :
    acceptanceChecks i = .legal i :: ((if needsWidth i then [.width] else []) ++
      ((if checksDims i then [.dims] else []) ++ (checkedSlots i).map .hasBuf)) := by
  cases i with
  | igdH | igdV | igdVH | ccd | mrg | rrb | demosaic => cases hi
  | balloc d => cases hd : d.isWide <;> simp [acceptanceChecks, needsWidth, checksDims, checkedSlots, hd]
  | bcopy | bmove | bfree | refine => rfl

/-- A check that fails is reported before all that follow. -/
theorem ite_some_eq_or {α : Type} {fails : Prop} [Decidable fails] (a : α) (later : Option α) :
    (if fails then some a else later) = (if fails then some a else none).or later := by
  split <;> rfl

/-- A check that only some commands make, as the table of rule R234 has it. -/
theorem checkFault_made {made ok : Bool} {fails : Prop} [Decidable fails] {c : Check} {report : FaultCause × Word}
    (hc : checkFault s c = if ok then none else some report) (hfails : fails ↔ ok = false) :
    (if made = true ∧ fails then some report else none) = if made then checkFault s c else none := by
  rw [hc]
  cases made <;> cases ok <;> simp [hfails]

/-- The table of rule R234 is a sequence of checks. -/
theorem reportedFault_eq_or (s : State) (i : Instr) :
    reportedFault s i = (checkFault s (.legal i)).or ((if needsWidth i then checkFault s .width else none).or
      ((if checksDims i then checkFault s .dims else none).or
        (slotFault s (isStageCommand i) (checkedSlots i)))) := by
  have hlegal : (if i.legal = false then some (FaultCause.illCmd, encode i) else none) = checkFault s (.legal i) := by
    rw [checkFault]
    cases i.legal <;> rfl
  have hcode : 2 ≤ s.cfg.swc.toNat ↔ s.cfg.widthOK = false := by
    rw [← Bool.not_eq_true, Cfg.widthOK_iff, Nat.not_lt]
  have hwidth : checkFault s .width = if s.cfg.widthOK then none else some (.cfgErr, s.cfg.word) := rfl
  have hdims : checkFault s .dims = if s.dimsOK then none else some (.dimErr, s.dim.word) := rfl
  rw [reportedFault, ite_some_eq_or, hlegal, ite_some_eq_or _ (ite ..), ite_some_eq_or _ (slotFault ..),
    checkFault_made hwidth hcode, checkFault_made hdims Iff.rfl]

/-- Every command reports the fault of the table of rule R234, in the order of rule R271. -/
theorem firstFault_acceptanceChecks (s : State) (i : Instr) :
    firstFault s (acceptanceChecks i) = reportedFault s i := by
  cases hi : isStageCommand i with
  | true => exact firstFault_of_stageCommand hi s
  | false =>
    rw [acceptanceChecks_columns hi, reportedFault_eq_or, hi, firstFault_cons, firstFault_append, firstFault_append,
      firstFault_ite, firstFault_ite, firstFault_hasBuf]

/-- In `IDLE` every command is accepted; that of the reserved one finds it illegal (rules R230, R261). -/
theorem exec_idle (i : Instr) (hidle : s.engine = .idle) : exec i s = .next (s.accept i (firstStage i)) := by
  obtain ⟨work, hi⟩ | rfl | ⟨payload, rfl⟩ := command_cases i
  · rw [hi.exec_eq, runSingleStage_idle hidle]
  · exact exec_stageCommand_idle rfl hidle
  · rw [exec_refine_of_idle hidle]
    rfl

theorem acceptsByItsChecks (i : Instr) : AcceptsByItsChecks i := by
  intro s hidle
  rw [exec_idle i hidle, State.accept, firstFault_latchCommand, firstFault_acceptanceChecks]
  cases reportedFault s i <;> rfl

/-- A command of one stage whose checks pass completes with the slots its stage leaves (rules R230, R233). -/
theorem OneStage.completesWith {work : State → State} (hi : OneStage i work) (hidle : s.engine = .idle)
    (hpass : reportedFault s i = none) :
    CompletesWith s i (firstStage i) (work (acceptedState s i (firstStage i))).mem := by
  refine ⟨?_, ?_⟩
  · rw [acceptsByItsChecks i s hidle, hpass]
  · rw [hi.exec_eq, runSingleStage_busy rfl, hi.writesOnlySlots]
    rfl

end

/-! ### The words of format B -/

theorem toNat_append_eq_add {m n : Nat} (x : BitVec m) (y : BitVec n) :
    (x ++ y).toNat = x.toNat * 2 ^ n + y.toNat := by
  rw [BitVec.toNat_append, ← Nat.shiftLeft_add_eq_or_of_lt y.isLt, Nat.shiftLeft_eq]

/-- A format B word as a number (rule R92). -/
theorem formatB_eq_ofNat (op : BitVec 8) (dst src : BitVec 4) :
    formatB op dst src = BitVec.ofNat 32 (op.toNat * 2 ^ 24 + dst.toNat * 2 ^ 20 + src.toNat * 2 ^ 16) := by
  have hop := op.isLt
  have hdst := dst.isLt
  have hsrc := src.isLt
  refine BitVec.eq_of_toNat_eq ?_
  simp only [formatB, toNat_append_eq_add, BitVec.toNat_ofNat]
  omega

/-! ### The buffer commands -/

section
variable {d src : Slot} {cfg : Cfg}

/-- Into slot 3 the samples are widened (rule R236). -/
theorem copiedRaster_widened (hd : d.isWide = true) (ras : Raster) :
    copiedRaster cfg d src ras = ⟨.four, widen ras.plane⟩ := if_pos hd

/-- Out of slot 3 the samples are clamped to `SW` (rule R236). -/
theorem copiedRaster_narrowed (hd : d.isWide = false) (hsrc : src.isWide = true) (ras : Raster) :
    copiedRaster cfg d src ras = ⟨cfg.sampleBytes, narrowSat cfg.maxSample ras.plane⟩ := by
  simp [copiedRaster, hd, hsrc]

/-- Within the sample kind the copy is exact (rule R236). -/
theorem copiedRaster_exact (hd : d.isWide = false) (hsrc : src.isWide = false) (ras : Raster) :
    copiedRaster cfg d src ras = ras := by
  simp [copiedRaster, hd, hsrc]

end

/-- A legal buffer command passes its checks when the width it needs, the `DIM` it checks and its source are in
order. -/
theorem reportedFault_eq_none {s : State} {i : Instr} (hi : isStageCommand i = false) (hlegal : i.legal = true)
    (hwidth : needsWidth i = true → s.cfg.swc.toNat < 2) (hdims : checksDims i = true → s.dimsOK = true)
    (hslots : ∀ k ∈ checkedSlots i, s.mem.valid k = true) : reportedFault s i = none := by
  rw [reportedFault_eq_or, hi, ← firstFault_hasBuf]
  simp only [Option.or_eq_none_iff, ite_eq_right_iff, firstFault_eq_none, List.forall_mem_map]
  refine ⟨?_, fun hneeds => ?_, fun hchecks => ?_, fun k hk => ?_⟩
  · rw [checkFault, if_pos hlegal]
  · rw [checkFault, if_pos (Cfg.widthOK_iff.mpr (hwidth hneeds))]
  · rw [checkFault, if_pos (hdims hchecks)]
  · rw [checkFault, if_pos (hslots k hk)]

section
variable {s : State} {d src : Slot} {ras : Raster} (hidle : s.engine = .idle)

theorem Memory.valid_of_slot {m : Memory} {k : Slot} (h : m.slot k = some ras) : m.valid k = true :=
  Option.isSome_iff_exists.mpr ⟨ras, h⟩

theorem bcopy_passes (hslot : s.mem.slot src = some ras)
    (hwidth : src.isWide = true → d.isWide = false → s.cfg.swc.toNat < 2) : reportedFault s (.bcopy d src) = none :=
  reportedFault_eq_none rfl rfl (by simpa [needsWidth] using hwidth) nofun
    (List.forall_mem_singleton.mpr (Memory.valid_of_slot hslot))

theorem bmove_legal_iff : (Instr.bmove d src).legal = true ↔ d.isWide = src.isWide := by
  simp [Instr.legal, Instr.wellFormed, Instr.reserved]

theorem bmove_passes (hslot : s.mem.slot src = some ras) (hkind : d.isWide = src.isWide) :
    reportedFault s (.bmove d src) = none :=
  reportedFault_eq_none rfl (bmove_legal_iff.mpr hkind) nofun nofun
    (List.forall_mem_singleton.mpr (Memory.valid_of_slot hslot))

include hidle

theorem balloc_completes (hwidth : d.isWide = false → s.cfg.swc.toNat < 2) (hdims : s.dimsOK = true) :
    CompletesWith s (.balloc d) .bufferOp (allocStage d s).mem :=
  (oneStage_balloc d).completesWith hidle (reportedFault_eq_none rfl rfl (by simpa [needsWidth] using hwidth)
    (fun _ => hdims) nofun)

theorem bfree_completes : CompletesWith s (.bfree d) .bufferOp (s.mem.setSlot d none) :=
  (oneStage_bfree d).completesWith hidle (reportedFault_eq_none rfl rfl nofun nofun nofun)

theorem bcopy_self_completes (hpass : reportedFault s (.bcopy d d) = none) :
    CompletesWith s (.bcopy d d) .bufferOp s.mem := by
  have h := (oneStage_bcopy d d).completesWith hidle hpass
  rwa [copyStage_self] at h

theorem bcopy_completes (hne : d ≠ src) (hslot : s.mem.slot src = some ras)
    (hpass : reportedFault s (.bcopy d src) = none) :
    CompletesWith s (.bcopy d src) .bufferOp (s.mem.setSlot d (some (copiedRaster s.cfg d src ras))) := by
  have h := (oneStage_bcopy d src).completesWith hidle hpass
  rwa [copyStage_of_slot (s := acceptedState s _ _) hne hslot] at h

theorem bmove_self_completes (hpass : reportedFault s (.bmove d d) = none) :
    CompletesWith s (.bmove d d) .bufferOp s.mem := by
  have h := (oneStage_bmove d d).completesWith hidle hpass
  rwa [moveStage_self] at h

theorem bmove_completes (hne : d ≠ src) (hpass : reportedFault s (.bmove d src) = none) :
    CompletesWith s (.bmove d src) .bufferOp ((s.mem.setSlot d (s.mem.slot src)).setSlot src none) := by
  have h := (oneStage_bmove d src).completesWith hidle hpass
  rwa [moveStage_of_ne hne] at h

/-- A move across kinds is not legal (rules R97, R237). -/
theorem bmove_across_kinds (hkind : d.isWide ≠ src.isWide) : exec (.bmove d src) s =
    .next (faultedState s (encode (.bmove d src)) .illCmd (encode (.bmove d src))) := by
  have hlegal : (Instr.bmove d src).legal = false := Bool.eq_false_iff.mpr fun h => hkind (bmove_legal_iff.mp h)
  rw [acceptsByItsChecks (.bmove d src) s hidle, reportedFault, if_pos hlegal]

end

/-- Settles O35. -/
theorem allocAndFreeComplete : Obligations.AllocAndFreeComplete := by
  refine ⟨fun d => ?_, fun _ => acceptsByItsChecks _, fun _ => acceptsByItsChecks _,
    fun _ _ => balloc_completes, fun _ _ => bfree_completes⟩
  simp [encode, formatB_eq_ofNat]

/-- Settles O36: the content that `bcopy_completes` gives the destination, case by case. -/
theorem bcopyCompletes : Obligations.BcopyCompletes := by
  refine ⟨fun d src => by simp [encode, formatB_eq_ofNat], fun _ _ => acceptsByItsChecks _,
    fun s d src ras hidle hslot hwidth => ?_⟩
  have hpass : reportedFault s (.bcopy d src) = none := bcopy_passes hslot hwidth
  have hcopied := fun hne => bcopy_completes hidle hne hslot hpass
  refine ⟨?self, fun hne hd hsrc => ?exact, fun hne hd => ?widened, fun hd hsrc => ?narrowed⟩
  case self =>
    rintro rfl
    exact bcopy_self_completes hidle hpass
  case exact =>
    rw [← copiedRaster_exact hd hsrc ras]
    exact hcopied hne
  case widened =>
    rw [← copiedRaster_widened hd ras]
    exact hcopied hne
  case narrowed =>
    rw [← copiedRaster_narrowed hd hsrc ras]
    exact hcopied (by rintro rfl; rw [hd] at hsrc; cases hsrc)

/-- Settles O37. -/
theorem bmoveCompletes : Obligations.BmoveCompletes := by
  refine ⟨fun d src => by simp [encode, formatB_eq_ofNat], fun _ _ => acceptsByItsChecks _,
    fun s d src hidle => ⟨fun ras hslot hkind => ?_, bmove_across_kinds hidle⟩⟩
  have hpass : reportedFault s (.bmove d src) = none := bmove_passes hslot hkind
  refine ⟨?_, fun hne => ?_⟩
  · rintro rfl
    exact bmove_self_completes hidle hpass
  · rw [← hslot]
    exact bmove_completes hidle hne hpass

end Sys2Proof.Machine

/-!
## The reserved code (46_refiner_excluded.md)
-/

namespace Sys2Proof.Machine

/-- The words of `REFINE` are those with `OP = 0x14`, bits 23:0 being its payload (rule R261). -/
theorem opField_eq_refine_iff {x : Word} : opField x = 0x14 ↔ ∃ payload, encode (.refine payload) = x := by
  constructor
  · intro hop
    have hword := word_eq_op_and_rest x
    rw [hop] at hword
    exact ⟨x.extractLsb' 0 24, hword.symm⟩
  · rintro ⟨payload, rfl⟩
    exact BitVec.extractLsb'_append_eq_left

/-- Every `REFINE` is well-formed, so decoding to one is being its word (rule R98; log entry 5). -/
theorem decode_eq_refine_iff {x : Word} {payload : BitVec 24} :
    decode x = .ok (.refine payload) ↔ encode (.refine payload) = x :=
  decode_eq_ok_iff.trans (and_iff_left rfl)

/-- Settles O29: `REFINE` is accepted as an illegal word, with its own word as information. -/
theorem refineRaisesIllcmd : Obligations.RefineRaisesIllcmd := by
  refine ⟨fun x => ?words, fun s payload hidle => ?accepted⟩
  case words => simpa only [decode_eq_refine_iff] using opField_eq_refine_iff
  case accepted =>
    rw [exec_refine_of_idle hidle]
    rfl

end Sys2Proof.Machine

/-!
## The encoding, both ways (30_encoding.md)
-/

namespace Sys2Proof

/-- Settles O1: the round trip `decode_encode`, command by command. -/
theorem decodeAfterEncode : Obligations.DecodeAfterEncode := fun _ => decode_encode

/-- Settles O2: the converse `encode_of_decode`, opcode by opcode. -/
theorem encodeAfterDecode : Obligations.EncodeAfterDecode := fun _ _ => encode_of_decode

/-- Settles O4: the decoder runs on each word. -/
theorem specWordsDecode : Obligations.SpecWordsDecode := by
  unfold Obligations.SpecWordsDecode
  and_intros <;> rfl

end Sys2Proof

/-!
## Faults, the interrupt line, and reset (60_exceptions.md, 70_reset_and_hazards.md)
-/

namespace Sys2Proof.Machine

/-! ### The checks of a command -/

/-- Settles O27: the checks made are those of the table of rule R234, in its order. -/
theorem firstFailingCheckIsReported : Obligations.FirstFailingCheckIsReported := acceptsByItsChecks

/-! ### Reset -/

/-- Every register but `ID` reads 0 at reset (rule R50). -/
theorem readWord_reset : ∀ off ∈ [0x04, 0x08, 0x0C, 0x10, 0x14, 0x18, 0x1C, 0x24, 0x28, 0x2C],
    readWord off State.reset = 0 := by decide

/-- No register shows the fields that a reset leaves (log entry 13). -/
theorem readWord_resetBlock (off : Nat) (s : State) : readWord off s.resetBlock = readWord off State.reset := rfl

/-- The block's own state after a reset is at every reset value, whatever it was (rules R50, R300, R301). -/
theorem atReset_resetBlock (s : State) : AtReset s.resetBlock := by
  refine ⟨rfl, fun k => ?slots, rfl, fun off hoff => ?registers, rfl⟩
  case slots => cases k <;> exact ⟨rfl, rfl, rfl, rfl⟩
  case registers => rw [readWord_resetBlock, readWord_reset off hoff]

/-- `SRST` reads 0 (rule R37). -/
theorem Ctrl.word_srst (c : Ctrl) : c.word.getLsbD 31 = false := by
  rw [Ctrl.word, BitVec.getLsbD_append, BitVec.getLsbD_append]
  rfl

section
variable {s : State} {rest : List HostEvent} {d : Word}

/-- The `reset` input is never held (rule R300). -/
theorem step_of_hardReset (h : s.inputs = .hardReset :: rest) :
    step s = .next (State.resetBlock { s with inputs := rest }) := by
  rw [step_of_inputs h, hostStep, State.dropInput_of_inputs h]

/-- `CTRL` is a register of the window (rule R30). -/
theorem isOffset_ctrl : IsOffset 0x14 := by simp [IsOffset]

/-- A soft reset that is not held resets the block (rule R301). -/
theorem step_of_softReset (h : WritesNext s 0x14 d rest) (hsrst : d.getLsbD 31 = true)
    (hb : s.engine.isBusy = false) : step s = .next (State.resetBlock { s with inputs := rest }) := by
  rw [step_of_performedWrite isOffset_ctrl h hb]
  change Host.Outcome.next (writeCtrl d _) = _
  rw [writeCtrl, wordBit, if_pos hsrst, State.leaveFaulted]

/-- Both resets, as a step (rules R300, R301). -/
theorem ResetNext.step_eq (h : ResetNext s) : ∃ rest, step s = .next (State.resetBlock { s with inputs := rest }) := by
  obtain ⟨rest, h⟩ | ⟨hb, d, rest, h, hsrst⟩ := h
  · exact ⟨rest, step_of_hardReset h⟩
  · exact ⟨rest, step_of_softReset h hsrst hb⟩

end

/-- Settles O50. -/
theorem hardResetRestoresTheBlock : Obligations.HardResetRestoresTheBlock :=
  fun _ _ h => ⟨_, step_of_hardReset h, atReset_resetBlock _⟩

/-- Settles O51. -/
theorem resetRestoresEveryValue : Obligations.ResetRestoresEveryValue :=
  ⟨fun s => s.ctrl.word_srst, fun _ _ => ⟨step_of_hardReset, fun _ h hsrst =>
    ⟨step_of_softReset h hsrst, step_of_heldWrite isOffset_ctrl h⟩⟩⟩

/-- The block with legal parameters meets the invariant at reset: no slot is valid, and the engine is idle. -/
theorem State.resetWith_inv {p : Params} (hp : p.wf = true) : (State.resetWith p).Inv := ⟨hp, rfl, rfl, rfl⟩

/-- Settles O56. -/
theorem invariantHoldsAtReset : Obligations.InvariantHoldsAtReset :=
  ⟨State.resetWith_inv rfl, fun _ => State.resetWith_inv⟩

/-! ### The steps of an engine that is not busy -/

section
variable {s t : State} {rest : List HostEvent} {d x : Word}

/-- A set through the port changes the slots, `OOB` and `BUF_POS` (rules R64, R65). -/
theorem State.portSet_frame (s : State) (d : Word) :
    s.portSet d = { s with mem := (s.portSet d).mem, oob := (s.portSet d).oob, bufPos := s.advancePos } := by
  unfold State.portSet
  cases s.portTarget <;> rfl

/-- The engine state, `CUR_CMD` and `DONE` are as they were. -/
structure KeepsCommand (s t : State) : Prop where
  engine : t.engine = s.engine
  curCmd : t.curCmd = s.curCmd
  done : t.done = s.done

/-- A performed write that is none to `CMD` or `STATUS` and no soft reset (rules R30 to R43, R69). -/
theorem writeRegister_keepsCommand {off : Nat} (hcmd : off ≠ 0x0C) (hstatus : off ≠ 0x10)
    (hsrst : ¬(off = 0x14 ∧ d.getLsbD 31 = true)) (h : writeRegister off d s = .next t) : KeepsCommand s t := by
  unfold writeRegister at h
  split_ifs at h with _ _ hctrl <;> cases h
  · exact ⟨rfl, rfl, rfl⟩
  · exact ⟨rfl, rfl, rfl⟩
  · rw [writeCtrl, wordBit, if_neg fun hbit => hsrst ⟨hctrl, hbit⟩]
    exact ⟨rfl, rfl, rfl⟩
  · exact ⟨rfl, rfl, rfl⟩
  · exact ⟨rfl, rfl, rfl⟩
  · rw [State.portSet_frame]
    exact ⟨rfl, rfl, rfl⟩
  · exact ⟨rfl, rfl, rfl⟩

/-- What a step of an engine that is not busy can be: a reset, a word presented at `CMD`, a write to `STATUS`, or one
that keeps the command's record (rules R35, R44). -/
theorem step_cases_of_notBusy (hb : s.engine.isBusy = false) (h : step s = .next t) :
    ResetNext s ∨ (∃ x rest, WritesNext s 0x0C x rest) ∨
      (∃ d rest, WritesNext s 0x10 d rest ∧ t = s.dropInput.writeStatus d) ∨ KeepsCommand s t := by
  have hnotBusy : s.engine.isBusy ≠ true := Bool.eq_false_iff.mp hb
  obtain ⟨-, -, hstep⟩ | ⟨hbusy, -, -⟩ | ⟨hbusy, -, -⟩ | ⟨-, -, hstep⟩ | ⟨hreset, -⟩ | ⟨off, rest, -, -, -, -, hstep⟩ |
    ⟨off, d, rest, -, -, -, hnext, hstep⟩ | ⟨why, -, hstep⟩ := step_cases s
  · cases hstep.symm.trans h
    exact .inr (.inr (.inr ⟨rfl, rfl, rfl⟩))
  · exact absurd hbusy hnotBusy
  · exact absurd hbusy hnotBusy
  · cases hstep.symm.trans h
    exact .inr (.inr (.inr ⟨rfl, rfl, rfl⟩))
  · exact .inl (.inl hreset)
  · cases hstep.symm.trans h
    rw [readRegister_frame]
    exact .inr (.inr (.inr ⟨rfl, rfl, rfl⟩))
  · by_cases hcmd : off = 0x0C
    · exact .inr (.inl ⟨d, rest, hcmd ▸ hnext⟩)
    by_cases hstatus : off = 0x10
    · subst hstatus
      cases hstep.symm.trans h
      exact .inr (.inr (.inl ⟨d, rest, hnext, rfl⟩))
    by_cases hsrst : off = 0x14 ∧ d.getLsbD 31 = true
    · exact .inl (.inr ⟨hb, d, rest, hsrst.1 ▸ hnext, hsrst.2⟩)
    obtain ⟨hengine, hcur, hdone⟩ := writeRegister_keepsCommand hcmd hstatus hsrst (hstep.symm.trans h)
    exact .inr (.inr (.inr ⟨hengine, hcur, hdone⟩))
  · cases hstep.symm.trans h

/-! ### The faulted state -/

variable {cause : FaultCause} {info : Word}

/-- A command presented in `FAULTED` changes nothing (rule R273). -/
theorem exec_faulted (i : Instr) (he : s.engine = .faulted cause info) : exec i s = .next s := by
  obtain ⟨work, hi⟩ | rfl | ⟨payload, rfl⟩ := command_cases i
  · rw [hi.exec_eq, runSingleStage_faulted he]
  · simp only [exec, execDemosaic, he]
  · simp only [exec, execRefine, he]

/-- `FAULTED` ignores what is written to `CMD`, a command word or not (rule R273). -/
theorem writeCommand_faulted (x : Word) (he : s.engine = .faulted cause info) : writeCommand x s = .next s := by
  cases hx : decode x with
  | ok i => rw [writeCommand_of_decode hx, exec_faulted i he]
  | error e => simp only [writeCommand, hx, he]

/-- A word written to `CMD` in `FAULTED` is ignored (rule R273). -/
theorem step_of_writeCommand_faulted (he : s.engine = .faulted cause info) (h : WritesNext s 0x0C x rest) :
    step s = .next { s with inputs := rest } := by
  rw [step_of_performedWrite isOffset_cmd h (by rw [he]; rfl)]
  exact writeCommand_faulted x he

/-- A step in `FAULTED` that is no reset keeps the record of the fault (rule R273). -/
theorem step_keepsFault (he : s.engine = .faulted cause info) (h : step s = .next t) (hreset : ¬ResetNext s) :
    t.engine = .faulted cause info ∧ t.curCmd = s.curCmd := by
  rw [← he]
  have hb : s.engine.isBusy = false := by rw [he]; rfl
  obtain hr | ⟨x, rest, hcmd⟩ | ⟨d, rest, -, rfl⟩ | hkeeps := step_cases_of_notBusy hb h
  · exact absurd hr hreset
  · cases (step_of_writeCommand_faulted he hcmd).symm.trans h
    exact ⟨rfl, rfl⟩
  · exact ⟨rfl, rfl⟩
  · exact ⟨hkeeps.engine, hkeeps.curCmd⟩

/-- A reset leaves the engine idle and every slot empty (rules R50, R300, R301). -/
theorem ResetNext.idle_and_empty (hreset : ResetNext s) (h : step s = .next t) :
    t.engine = .idle ∧ ∀ k, t.mem.slot k = none := by
  obtain ⟨rest, hstep⟩ := hreset.step_eq
  cases hstep.symm.trans h
  exact ⟨rfl, fun k => by cases k <;> rfl⟩

end

/-- Settles O53: of the steps of an engine that is not busy only a reset changes the record. -/
theorem faultedIsLeftOnlyByReset : Obligations.FaultedIsLeftOnlyByReset := fun _ _ _ he =>
  ⟨fun _ _ => step_of_writeCommand_faulted he, fun _ => step_keepsFault he, fun _ h hreset => hreset.idle_and_empty h⟩

/-! ### The interrupt line -/

section
variable {s t : State}

/-- The interrupt line, as a proposition (rule R277). -/
theorem State.irq_iff :
    s.irq = true ↔ (s.done = true ∧ s.ctrl.ieDone = true) ∨ (s.engine.isFaulted = true ∧ s.ctrl.ieFault = true) := by
  simp [State.irq]

/-- In a state of the block `DONE` is set only in `IDLE` (rules R230, R233, R272). -/
theorem State.Inv.idle_of_done (h : s.Inv) (hdone : s.done = true) : s.engine = .idle := by
  obtain ⟨-, -, hidle, -⟩ := h
  simpa [doneOnlyIdle, hdone] using hidle

theorem Engine.isFaulted_iff {e : Engine} : e.isFaulted = true ↔ ∃ cause info, e = .faulted cause info := by
  cases e <;> simp [Engine.isFaulted]

/-- What takes `DONE` away in `IDLE`: a `STATUS` write with its bit, the next accepted command, or reset (rules R35, R230,
R277). -/
theorem step_clearsDone (hidle : s.engine = .idle) (h : step s = .next t) (hdone : s.done = true)
    (hclear : t.done = false) :
    (∃ d rest, WritesNext s 0x10 d rest ∧ d.getLsbD 1 = true) ∨
      (s.engine = .idle ∧ ∃ x rest, WritesNext s 0x0C x rest) ∨ ResetNext s := by
  have hb : s.engine.isBusy = false := by rw [hidle]; rfl
  obtain hreset | hcmd | ⟨d, rest, hnext, rfl⟩ | hkeeps := step_cases_of_notBusy hb h
  · exact .inr (.inr hreset)
  · exact .inr (.inl ⟨hidle, hcmd⟩)
  · exact .inl ⟨d, rest, hnext, by simpa [State.writeStatus, hdone, wordBit] using hclear⟩
  · rw [hkeeps.done, hdone] at hclear
    cases hclear

/-- A step that leaves `FAULTED` is a reset (rule R273). -/
theorem resetNext_of_leavesFaulted (h : step s = .next t) (hfault : s.engine.isFaulted = true)
    (hleft : t.engine.isFaulted = false) : ResetNext s := by
  obtain ⟨cause, info, he⟩ := Engine.isFaulted_iff.mp hfault
  by_contra hreset
  rw [(step_keepsFault he h hreset).1] at hleft
  cases hleft

end

/-- Settles O52: `DONE` is set only in `IDLE`, so it is never set with `FAULT`. -/
theorem interruptLineFollowsItsFourBits : Obligations.InterruptLineFollowsItsFourBits := by
  refine ⟨fun _ => State.irq_iff, fun s hinv ⟨hdone, hfault⟩ => ?_, fun s t hinv h => ⟨fun hdone => ?_, ?_⟩⟩
  · rw [hinv.idle_of_done hdone] at hfault
    cases hfault
  · exact step_clearsDone (hinv.idle_of_done hdone) h hdone
  · exact resetNext_of_leavesFaulted h

end Sys2Proof.Machine

/-!
## The inputs of the stage commands, and what their stages keep (10_state.md, 45_sequencer_and_buffer_commands.md)
-/

namespace Sys2Proof.Machine

/-! ### The inputs of a stage command -/

/-- `ShapeOK`, field by field (rule R24). -/
theorem State.shapeOK_iff {s : State} {k : Slot} : s.shapeOK k = true ↔
    s.mem.valid k = true ∧ s.mem.height k = s.dim.h.toNat ∧ s.mem.width k = s.dim.w.toNat ∧
      (k.isWide = true ∨ s.mem.bytes k = s.cfg.sampleBytes) := by
  unfold State.shapeOK Memory.valid Memory.height Memory.width Memory.bytes
  cases s.mem.slot k <;> simp [and_assoc]

/-- Slot 3 is the wide one (rule R20). -/
theorem Slot.isWide_iff {k : Slot} : k.isWide = true ↔ k = .cls := by
  cases k <;> decide

/-- The checks of input slots pass exactly when each has the shape (rules R24, R271). -/
theorem firstFault_inputChecks_eq_none {s : State} {slots : List Slot} :
    firstFault s (inputChecks slots) = none ↔ ∀ k ∈ slots, s.shapeOK k = true := by
  refine ⟨fun h => ?_, inputChecks_pass⟩
  induction slots with
  | nil => exact nofun
  | cons k rest ih =>
    simp only [inputChecks, firstFault_cons, Option.or_eq_none_iff] at h
    obtain ⟨-, hshape, hrest⟩ := h
    have hk : s.shapeOK k = true := by simpa [checkFault] using hshape
    exact List.forall_mem_cons.mpr ⟨hk, ih hrest⟩

/-- What a stage finds in order: `CFG.SWC`, `DIM`, and the shape of the listed slots (rule R234). -/
structure InputsReady (slots : List Slot) (s : State) : Prop where
  width : s.cfg.swc.toNat < 2
  dims : s.dimsOK = true
  shapes : ∀ k ∈ slots, s.shapeOK k = true

/-- The checks of a stage command pass exactly when its inputs are in order (rules R234, R271). -/
theorem firstFault_stageCommand_eq_none {s : State} {i : Instr} (hi : isStageCommand i = true) :
    firstFault s (acceptanceChecks i) = none ↔ InputsReady (checkedSlots i) s := by
  obtain ⟨hchecks, hlegal, -⟩ := isStageCommand_columns hi
  have hwidth : checkFault s .width = none ↔ s.cfg.swc.toNat < 2 := by
    rw [← Cfg.widthOK_iff]
    simp [checkFault]
  have hdims : checkFault s .dims = none ↔ s.dimsOK = true := by simp [checkFault]
  simp only [hchecks, stageChecks, List.cons_append, List.nil_append, firstFault_cons, Option.or_eq_none_iff, hwidth,
    hdims, firstFault_inputChecks_eq_none]
  exact ⟨fun ⟨_, hw, hd, hs⟩ => ⟨hw, hd, hs⟩, fun ⟨hw, hd, hs⟩ => ⟨by simp [checkFault, hlegal], hw, hd, hs⟩⟩

/-- A stage command that is busy after its acceptance has passed its checks (rule R230). -/
theorem firstFault_of_accept_busy {s : State} {i : Instr} {first : Stage}
    (h : (s.accept i first).engine.isBusy = true) : firstFault s (acceptanceChecks i) = none := by
  obtain ⟨hpass, -⟩ | ⟨cause, info, -, haccept⟩ := s.accept_cases i first
  · rwa [firstFault_latchCommand] at hpass
  · rw [haccept] at h
    cases h

/-- The one slot that is valid but of another shape is the one reported (rule R271, check 4). -/
theorem slotFault_shape {s : State} {k : Slot} {slots : List Slot} (hmem : k ∈ slots) (hvalid : s.mem.valid k = true)
    (hk : s.shapeOK k = false) (hothers : ∀ j ∈ slots, j ≠ k → s.shapeOK j = true) :
    slotFault s true slots = some (.shape, BitVec.ofNat 32 k.num.toNat) := by
  induction slots with
  | nil => cases hmem
  | cons j rest ih =>
    obtain ⟨hj, hrest⟩ := List.forall_mem_cons.mp hothers
    by_cases hjk : j = k
    · subst hjk
      have hslot : s.mem.slot j ≠ none := by simpa [Memory.valid, Option.isSome_iff_ne_none] using hvalid
      rw [slotFault, if_neg hslot, if_pos (by simp [hk])]
    · obtain ⟨ras, hslot, -⟩ := State.input_of_shapeOK (hj hjk)
      rw [slotFault, if_neg (by simp [hslot]), if_neg (by simp [hj hjk])]
      exact ih (List.mem_of_ne_of_mem (Ne.symm hjk) hmem) hrest

/-- Settles O12: a stage command starts with all its inputs in order, and reports the one that is not. -/
theorem shapeCheckComparesTheTag : Obligations.ShapeCheckComparesTheTag := by
  refine ⟨fun s k => ?tag, fun s t i hi hidle h hbusy => ?started,
    fun s i k hi hidle hwidth hdims hmem hvalid hk hothers => ?reported⟩
  case tag => rw [State.shapeOK_iff, Slot.isWide_iff]
  case started =>
    cases (exec_idle i hidle).symm.trans h
    exact ((firstFault_stageCommand_eq_none hi).mp (firstFault_of_accept_busy hbusy)).shapes
  case reported =>
    obtain ⟨-, hlegal, -, -⟩ := isStageCommand_columns hi
    rw [acceptsByItsChecks i s hidle, reportedFault, if_neg (by simp [hlegal]), if_neg (by omega),
      if_neg (by simp [hdims]), hi, slotFault_shape hmem hvalid hk hothers]

end Sys2Proof.Machine

/-!
## The outputs of the stages (10_state.md, section 4)
-/

namespace Sys2Proof.Machine

/-! ### What a stage's outputs depend on -/

section
variable {slots more : List Slot} {s t : State}

theorem AgreeOn.mono (h : AgreeOn more s t) (hsub : slots ⊆ more) : AgreeOn slots s t := by
  obtain ⟨hdim, hpattern, hswc, hslots⟩ := h
  exact ⟨hdim, hpattern, hswc, fun k hk => hslots k (hsub hk)⟩

/-- Agreement says nothing of the engine state. -/
theorem AgreeOn.start (h : AgreeOn slots s t) (st : Stage) : AgreeOn slots (s.start st) (t.start st) := h

theorem AgreeOn.slot_eq (h : AgreeOn slots s t) {k : Slot} (hk : k ∈ slots) : s.mem.slot k = t.mem.slot k := by
  obtain ⟨-, -, -, hslots⟩ := h
  exact hslots k hk

theorem AgreeOn.input_eq (h : AgreeOn slots s t) {k : Slot} (hk : k ∈ slots) : s.input k = t.input k := by
  obtain ⟨hdim, -⟩ := id h
  exact State.input_congr (h.slot_eq hk) hdim

theorem AgreeOn.sampleBytes_eq (h : AgreeOn slots s t) : s.cfg.sampleBytes = t.cfg.sampleBytes := by
  obtain ⟨-, -, hswc, -⟩ := h
  rw [Cfg.sampleBytes, Cfg.sampleBytes, hswc]

theorem AgreeOn.maxSample_eq (h : AgreeOn slots s t) : s.cfg.maxSample = t.cfg.maxSample := by
  rw [Cfg.maxSample, Cfg.maxSample, h.sampleBytes_eq]

theorem AgreeOn.tagFor_eq (h : AgreeOn slots s t) (k : Slot) : s.cfg.tagFor k = t.cfg.tagFor k := by
  rw [Cfg.tagFor, Cfg.tagFor, h.sampleBytes_eq]

/-- Two states that agree still do after the construction of one plane in the same slot of both, and agree on that slot
too (rule R25). -/
theorem AgreeOn.construct (h : AgreeOn slots s t) (k : Slot) {b b' : Plane} (hb : b = b') :
    AgreeOn (k :: slots) (s.construct k b) (t.construct k b') := by
  subst hb
  obtain ⟨hdim, hpattern, hswc, hslots⟩ := id h
  refine ⟨hdim, hpattern, hswc, fun j hj => ?_⟩
  rw [State.construct_mem, State.construct_mem, Memory.slot_setSlot, Memory.slot_setSlot, h.tagFor_eq k]
  split
  · rfl
  · next hne => exact hslots j (List.mem_of_ne_of_mem hne hj)

theorem AgreeOn.firPlane_eq (h : AgreeOn slots s t) (hm : .mosaic ∈ slots) (d : Direction) :
    s.firPlane d = t.firPlane d := by
  obtain ⟨-, hpattern, -, -⟩ := id h
  rw [State.firPlane, State.firPlane, h.maxSample_eq, hpattern, h.input_eq hm]

theorem AgreeOn.interpolateV (h : AgreeOn slots s t) (hm : .mosaic ∈ slots) :
    AgreeOn (.greenV :: slots) (interpolateV s) (interpolateV t) := h.construct .greenV (h.firPlane_eq hm .vertical)

theorem AgreeOn.interpolateH (h : AgreeOn slots s t) (hm : .mosaic ∈ slots) :
    AgreeOn (.greenH :: slots) (interpolateH s) (interpolateH t) := h.construct .greenH (h.firPlane_eq hm .horizontal)

theorem AgreeOn.interpolateVH (h : AgreeOn slots s t) (hm : .mosaic ∈ slots) :
    AgreeOn (.greenH :: .greenV :: slots) (interpolateVH s) (interpolateVH t) :=
  (h.interpolateV hm).interpolateH (List.mem_cons_of_mem _ hm)

theorem AgreeOn.classifyStage (h : AgreeOn slots s t) (hsub : checkedSlots .ccd ⊆ slots) :
    AgreeOn (.cls :: slots) (classifyStage s) (classifyStage t) := by
  refine h.construct .cls ?_
  rw [State.classifierPlane, State.classifierPlane, h.input_eq (hsub (by decide)), h.input_eq (hsub (by decide)),
    h.input_eq (k := .greenH) (hsub (by decide))]

theorem AgreeOn.mergeStage (h : AgreeOn slots s t) (hsub : checkedSlots .mrg ⊆ slots) :
    AgreeOn (.green :: slots) (mergeStage s) (mergeStage t) := by
  refine h.construct .green ?_
  rw [State.mergedPlane, State.mergedPlane, h.input_eq (k := .greenV) (hsub (by decide)),
    h.input_eq (k := .greenH) (hsub (by decide)), h.input_eq (k := .cls) (hsub (by decide))]

theorem AgreeOn.reconstructStage (h : AgreeOn slots s t) (hsub : checkedSlots .rrb ⊆ slots) :
    AgreeOn (.blue :: .red :: slots) (reconstructStage s) (reconstructStage t) := by
  obtain ⟨-, hpattern, -, -⟩ := id h
  have hmos : s.input .mosaic = t.input .mosaic := h.input_eq (hsub (by decide))
  have hcls : s.input .cls = t.input .cls := h.input_eq (hsub (by decide))
  have hgreen : s.input .green = t.input .green := h.input_eq (hsub (by decide))
  refine (h.construct .red ?_).construct .blue ?_
  · rw [State.redResult, State.redResult, h.maxSample_eq, hpattern, hmos, hcls, hgreen]
  · rw [State.blueResult, State.blueResult, h.maxSample_eq, hpattern, hmos, hcls, hgreen]

end

/-- Both runs answer a next state, and the listed slots are alike in the two. -/
def FinishAlike (written : List Slot) (o1 o2 : Host.Outcome State Fault Refusal) : Prop :=
  ∃ t1 t2, o1 = .next t1 ∧ o2 = .next t2 ∧ ∀ k ∈ written, t1.mem.slot k = t2.mem.slot k

/-- A command of one stage finishes in one execution, with the slots its stage leaves (rule R233). -/
theorem finishAlike_of_oneStage {i : Instr} {work : State → State} {out : List Slot} {s t : State}
    (hexec : ∀ u, exec i u = runSingleStage i (firstStage i) work u) (hs : s.engine = .busy (firstStage i))
    (ht : t.engine = .busy (firstStage i)) (hagree : AgreeOn out (work s) (work t)) (hsub : writtenSlots i ⊆ out) :
    FinishAlike (writtenSlots i) (execTimes i 1 s) (execTimes i 1 t) :=
  ⟨(work s).finish, (work t).finish, execTimes_one (by rw [hexec, runSingleStage_busy hs]),
    execTimes_one (by rw [hexec, runSingleStage_busy ht]), fun _ hk => hagree.slot_eq (hsub hk)⟩

/-- The state in which a `DEMOSAIC` that starts in `s` finishes (rule R231). -/
def demosaicResult (s : State) : State :=
  (reconstructStage ((mergeStage ((classifyStage ((interpolateVH s).start .classify)).start .merge)).start
    .reconstruct)).finish

/-- `DEMOSAIC` finishes in four executions from its first stage (rules R231, R233). -/
theorem execTimes_demosaic {s : State} (hs : s.engine = .busy .interpolate) :
    execTimes .demosaic 4 s = .next (demosaicResult s) := by
  have h1 : exec .demosaic s = .next ((interpolateVH s).start .classify) := by rw [exec, execDemosaic, hs]
  exact execTimes_succ (execTimes_succ (execTimes_succ (execTimes_one h1) rfl) rfl) rfl

/-- Each stage of `DEMOSAIC` reads the mosaic and what the stages before it have written (rule R231). -/
theorem AgreeOn.demosaicResult {s t : State} (h : AgreeOn [.mosaic] s t) :
    AgreeOn [.blue, .red, .green, .cls, .greenH, .greenV, .mosaic] (demosaicResult s) (demosaicResult t) := by
  have hgreens := (h.interpolateVH (by decide)).start .classify
  have hcls := (hgreens.classifyStage (by decide)).start .merge
  have hgreen := (hcls.mergeStage (by decide)).start .reconstruct
  exact hgreen.reconstructStage (by decide)

/-- Settles O39: agreement is kept by every stage, and extends to what the stage writes. -/
theorem stageOutputsDependOnInputsAlone : Obligations.StageOutputsDependOnInputsAlone := by
  intro i s1 s2 hi hs1 hs2 hagree
  change FinishAlike (writtenSlots i) _ _
  cases i with
  | igdH => exact finishAlike_of_oneStage (fun _ => rfl) hs1 hs2 (hagree.interpolateH (by decide)) (by decide)
  | igdV => exact finishAlike_of_oneStage (fun _ => rfl) hs1 hs2 (hagree.interpolateV (by decide)) (by decide)
  | igdVH => exact finishAlike_of_oneStage (fun _ => rfl) hs1 hs2 (hagree.interpolateVH (by decide)) (by decide)
  | ccd => exact finishAlike_of_oneStage (fun _ => rfl) hs1 hs2 (hagree.classifyStage (by decide)) (by decide)
  | mrg => exact finishAlike_of_oneStage (fun _ => rfl) hs1 hs2 (hagree.mergeStage (by decide)) (by decide)
  | rrb => exact finishAlike_of_oneStage (fun _ => rfl) hs1 hs2 (hagree.reconstructStage (by decide)) (by decide)
  | demosaic =>
    exact ⟨_, _, execTimes_demosaic hs1, execTimes_demosaic hs2,
      fun _ hk => hagree.demosaicResult.slot_eq ((by decide : writtenSlots .demosaic ⊆ _) hk)⟩
  | balloc | bcopy | bmove | bfree | refine => cases hi

end Sys2Proof.Machine

/-!
## The invariant of the block (10_state.md, 45_sequencer_and_buffer_commands.md)
-/

namespace Sys2Proof.Machine

/-! ### The widths and ranges of samples -/

section
variable {cfg : Cfg} {k d src : Slot} {sw : SampleBytes} {v : Int}

theorem Cfg.sampleBytes_of_swc_zero (h : cfg.swc = 0) : cfg.sampleBytes = .one := if_pos h

theorem Cfg.sampleBytes_of_swc_one (h : cfg.swc = 1) : cfg.sampleBytes = .two := by
  rw [Cfg.sampleBytes, if_neg (by rw [h]; decide), if_pos h]

/-- A legal width code selects one byte or two (rule R32). -/
theorem Cfg.sampleBytes_ne_four (h : cfg.swc.toNat < 2) : cfg.sampleBytes ≠ .four := by
  have hcode : cfg.swc = 0 ∨ cfg.swc = 1 := by
    rcases (by omega : cfg.swc.toNat = 0 ∨ cfg.swc.toNat = 1) with h0 | h1
    · exact .inl (BitVec.eq_of_toNat_eq h0)
    · exact .inr (BitVec.eq_of_toNat_eq h1)
  rcases hcode with h0 | h1
  · rw [Cfg.sampleBytes_of_swc_zero h0]
    decide
  · rw [Cfg.sampleBytes_of_swc_one h1]
    decide

theorem SampleBytes.maxSample_nonneg (sw : SampleBytes) : 0 ≤ sw.maxSample := by
  cases sw <;> decide

theorem SampleBytes.maxSample_le (h : sw ≠ .four) : sw.maxSample ≤ 65535 := by
  cases sw with
  | one | two => decide
  | four => exact absurd rfl h

/-- The range of a sample slot (rule R22). -/
theorem inRange_iff_of_sampleSlot (hk : k.isWide = false) : inRange k sw v = true ↔ 0 ≤ v ∧ v ≤ sw.maxSample := by
  simp [inRange, hk]

/-- The range of slot 3 (rule R22). -/
theorem inRange_iff_of_wideSlot (hk : k.isWide = true) : inRange k sw v = true ↔ -(2 ^ 31) ≤ v ∧ v ≤ 2 ^ 31 - 1 := by
  simp [inRange, hk]

theorem tagOK_iff_of_sampleSlot (hk : k.isWide = false) : tagOK k sw = true ↔ sw ≠ .four := by
  simp [tagOK, hk]

theorem Cfg.tagFor_sampleSlot (hk : k.isWide = false) : cfg.tagFor k = cfg.sampleBytes := by
  simp [Cfg.tagFor, hk]

/-- A command gives a slot a tag of its kind (rules R21, R25). -/
theorem tagOK_tagFor (hwidth : k.isWide = false → cfg.swc.toNat < 2) : tagOK k (cfg.tagFor k) = true := by
  cases hk : k.isWide with
  | true => simp [tagOK, Cfg.tagFor, hk]
  | false =>
    rw [tagOK_iff_of_sampleSlot hk, Cfg.tagFor_sampleSlot hk]
    exact Cfg.sampleBytes_ne_four (hwidth hk)

/-- Every sample fits the wide slot (rules R22, R236). -/
theorem inRange_widened (hd : d.isWide = true) (htag : tagOK k sw = true) (hv : inRange k sw v = true) :
    inRange d .four v = true := by
  rw [inRange_iff_of_wideSlot hd]
  cases hk : k.isWide with
  | true => exact (inRange_iff_of_wideSlot hk).mp hv
  | false =>
    have hle := SampleBytes.maxSample_le ((tagOK_iff_of_sampleSlot hk).mp htag)
    have hbounds := (inRange_iff_of_sampleSlot hk).mp hv
    omega

/-- The form of a slot's content depends on the kind of the slot alone. -/
theorem Raster.wf_of_kind (hkind : d.isWide = src.isWide) (p : Params) (ras : Raster) :
    ras.wf p d = ras.wf p src := by
  have hrange : inRange d ras.sw = inRange src ras.sw := funext fun v => by simp only [inRange, hkind]
  have htag : tagOK d ras.sw = tagOK src ras.sw := by simp only [tagOK, hkind]
  rw [Raster.wf, Raster.wf, htag, hrange]

theorem slotWf_of_kind (hkind : d.isWide = src.isWide) (p : Params) (content : Option Raster) :
    slotWf p d content = slotWf p src content := by
  cases content with
  | none => rfl
  | some ras => exact Raster.wf_of_kind hkind p ras

end

/-! ### The slots that commands construct -/

/-- A buffer value of the shape `DIM`, as every command constructs it (rule R25). -/
structure HasDimShape (s : State) (b : Plane) : Prop where
  wellShaped : b.wellShaped = true
  h_eq : b.h = s.dim.h.toNat
  w_eq : b.w = s.dim.w.toNat

section
variable {s : State} {slots more : List Slot} {k : Slot} {b : Plane}

theorem hasDimShape_tabulate (s : State) (f : Nat → Nat → Int) :
    HasDimShape s (Plane.tabulate s.dim.h.toNat s.dim.w.toNat f) := ⟨Plane.tabulate_wellShaped _ _ f, rfl, rfl⟩

theorem State.classifierPlane_hasDimShape (s : State) : HasDimShape s s.classifierPlane := by
  rw [State.classifierPlane, slidingWindow_eq_windowSum]
  exact hasDimShape_tabulate s _

/-- A constructed slot is of the shape `DIM`, and the others are as before (rules R24, R25). -/
theorem State.shapeOK_construct (hb : HasDimShape s b) (j : Slot) :
    (s.construct k b).shapeOK j = if j = k then true else s.shapeOK j := by
  split
  · next hjk =>
    subst hjk
    exact State.shapeOK_of_slot (s := s.construct j b) (Memory.slot_setSlot_same ..) hb.h_eq hb.w_eq
  · next hjk => simp only [State.shapeOK, State.construct_mem, Memory.slot_setSlot_other _ _ hjk]; rfl

theorem InputsReady.mono (h : InputsReady more s) (hsub : slots ⊆ more) : InputsReady slots s :=
  ⟨h.width, h.dims, fun k hk => h.shapes k (hsub hk)⟩

/-- A slot that a stage has constructed can be an input of the next one (rule R231). -/
theorem InputsReady.construct (h : InputsReady slots s) (hb : HasDimShape s b) (k : Slot) :
    InputsReady (k :: slots) (s.construct k b) := by
  refine ⟨h.width, h.dims, fun j hj => ?_⟩
  rw [State.shapeOK_construct hb]
  split
  · rfl
  · next hjk => exact h.shapes j (List.mem_of_ne_of_mem hjk hj)

theorem InputsReady.interpolateV (h : InputsReady slots s) : InputsReady (.greenV :: slots) (interpolateV s) :=
  h.construct (hasDimShape_tabulate s _) .greenV

theorem InputsReady.interpolateVH (h : InputsReady slots s) :
    InputsReady (.greenH :: .greenV :: slots) (interpolateVH s) :=
  h.interpolateV.construct (hasDimShape_tabulate _ _) .greenH

theorem InputsReady.classifyStage (h : InputsReady slots s) : InputsReady (.cls :: slots) (classifyStage s) :=
  h.construct s.classifierPlane_hasDimShape .cls

theorem InputsReady.mergeStage (h : InputsReady slots s) : InputsReady (.green :: slots) (mergeStage s) :=
  h.construct (hasDimShape_tabulate s _) .green

/-- The construction of a slot keeps the form of the buffer space when the width it needs and `DIM` are in order and
the samples are in range (rules R22, R25). -/
theorem State.construct_mem_wf (hwf : s.mem.wf s.params = true) (hwidth : k.isWide = false → s.cfg.swc.toNat < 2)
    (hdims : s.dimsOK = true) (hb : HasDimShape s b)
    (hin : ∀ r c, r < b.h → c < b.w → inRange k (s.cfg.tagFor k) (b.sample r c) = true) :
    (s.construct k b).mem.wf s.params = true := by
  refine State.construct_wf hwf (tagOK_tagFor hwidth) (by rw [hb.h_eq, hb.w_eq]; exact hdims) hb.wellShaped ?_
  rw [Plane.eq_tabulate hb.wellShaped]
  exact Plane.tabulate_allSamples.mpr hin

theorem Cfg.maxSample_nonneg (cfg : Cfg) : 0 ≤ cfg.maxSample := SampleBytes.maxSample_nonneg _

/-- A sample slot is constructed from samples in `0 … M` (rules R22, R25). -/
theorem InputsReady.constructSamples_wf (h : InputsReady slots s) (hwf : s.mem.wf s.params = true)
    (hk : k.isWide = false) (hb : HasDimShape s b) (hin : SamplesIn b s.cfg.maxSample) :
    (s.construct k b).mem.wf s.params = true :=
  State.construct_mem_wf hwf (fun _ => h.width) h.dims hb fun r c hr hc => by
    rw [inRange_iff_of_sampleSlot hk, Cfg.tagFor_sampleSlot hk]
    exact hin r c hr hc

/-- The samples of an input slot are in `0 … M` (rules R22, R24). -/
theorem InputsReady.input_samplesIn (h : InputsReady slots s) (hwf : s.mem.wf s.params = true) (hmem : k ∈ slots)
    (hk : k.isWide = false) : SamplesIn (s.input k) s.cfg.maxSample := by
  obtain ⟨ras, hslot, hin, -, -, hsw⟩ := State.input_of_shapeOK (h.shapes k hmem)
  obtain ⟨-, -, hshape, hall⟩ := Raster.wf_iff.mp (Memory.raster_wf hwf hslot)
  intro r c hr hc
  rw [hin] at hr hc ⊢
  have hrange := (inRange_iff_of_sampleSlot hk).mp (Plane.sample_of_allSamples hshape hall hr hc)
  rwa [hsw hk] at hrange

/-! ### What the stages keep of the form of the buffer space -/

/-- A sample of the classifier map is a sum of at most 25 differences in `-M … M` (rules R163, R164). -/
theorem slidingWindow_gradientDiff_bounds {mos gV gH : Plane} {m : Int} (hm : 0 ≤ m) (hmos : SamplesIn mos m)
    (hV : SamplesIn gV m) (hH : SamplesIn gH m) (hVh : gV.h = mos.h) (hVw : gV.w = mos.w) (hHh : gH.h = mos.h)
    (hHw : gH.w = mos.w) {r c : Nat} (hr : r < mos.h) (hc : c < mos.w) :
    -(25 * m) ≤ (slidingWindow (gradientDiff mos gV gH)).sample r c ∧
      (slidingWindow (gradientDiff mos gV gH)).sample r c ≤ 25 * m := by
  have hchromV : SamplesIn (chrominance mos gV) m := chrominance_samplesIn hVh hVw hmos hV
  have hchromH : SamplesIn (chrominance mos gH) m := chrominance_samplesIn hHh hHw hmos hH
  have hdiff : ∀ r c, r < mos.h → c < mos.w →
      -m ≤ (gradientDiff mos gV gH).sample r c ∧ (gradientDiff mos gV gH).sample r c ≤ m :=
    fun _ _ => gradientDiff_bounds hchromV hchromH
  obtain ⟨-, hwindow⟩ := slidingAccumulatorIsTheWindowedSum
  exact hwindow (gradientDiff mos gV gH) m hm hdiff r c hr hc

section
variable (h : InputsReady slots s) (hwf : s.mem.wf s.params = true)
include h hwf

theorem interpolateV_mem_wf (hm : .mosaic ∈ slots) : (interpolateV s).mem.wf s.params = true :=
  h.constructSamples_wf hwf rfl (hasDimShape_tabulate s _)
    (fir_samplesIn s.cfg.maxSample_nonneg (h.input_samplesIn hwf hm rfl))

theorem interpolateH_mem_wf (hm : .mosaic ∈ slots) : (interpolateH s).mem.wf s.params = true :=
  h.constructSamples_wf hwf rfl (hasDimShape_tabulate s _)
    (fir_samplesIn s.cfg.maxSample_nonneg (h.input_samplesIn hwf hm rfl))

theorem interpolateVH_mem_wf (hm : .mosaic ∈ slots) : (interpolateVH s).mem.wf s.params = true :=
  interpolateH_mem_wf (s := interpolateV s) h.interpolateV (interpolateV_mem_wf (s := s) h hwf hm)
    (List.mem_cons_of_mem _ hm)

/-- Twenty-five differences of at most 65535 fit 32 bits (rules R22, R164). -/
theorem classifyStage_mem_wf (hsub : checkedSlots .ccd ⊆ slots) : (classifyStage s).mem.wf s.params = true := by
  have hmos := h.input_samplesIn (k := .mosaic) hwf (hsub (by decide)) rfl
  have hV := h.input_samplesIn (k := .greenV) hwf (hsub (by decide)) rfl
  have hH := h.input_samplesIn (k := .greenH) hwf (hsub (by decide)) rfl
  have hM : s.cfg.maxSample ≤ 65535 := SampleBytes.maxSample_le (Cfg.sampleBytes_ne_four h.width)
  refine State.construct_mem_wf hwf nofun h.dims s.classifierPlane_hasDimShape fun r c hr hc => ?_
  have hsum : -(25 * s.cfg.maxSample) ≤ s.classifierPlane.sample r c ∧
      s.classifierPlane.sample r c ≤ 25 * s.cfg.maxSample :=
    slidingWindow_gradientDiff_bounds s.cfg.maxSample_nonneg hmos hV hH rfl rfl rfl rfl hr hc
  rw [inRange_iff_of_wideSlot rfl]
  omega

theorem mergeStage_mem_wf (hsub : checkedSlots .mrg ⊆ slots) : (mergeStage s).mem.wf s.params = true := by
  refine h.constructSamples_wf hwf rfl (hasDimShape_tabulate s _) fun r c hr hc => ?_
  have hsample : s.mergedPlane.sample r c = _ := Plane.tabulate_sample _ hr hc
  rw [hsample]
  split
  · exact h.input_samplesIn (k := .greenH) hwf (hsub (by decide)) rfl r c hr hc
  · exact h.input_samplesIn (k := .greenV) hwf (hsub (by decide)) rfl r c hr hc

theorem reconstructStage_mem_wf (hsub : checkedSlots .rrb ⊆ slots) : (reconstructStage s).mem.wf s.params = true := by
  have hmos := h.input_samplesIn (k := .mosaic) hwf (hsub (by decide)) rfl
  have hred : HasDimShape s s.redResult := hasDimShape_tabulate s _
  have hwf' := h.constructSamples_wf (k := .red) hwf rfl hred (redPlane_samplesIn s.cfg.maxSample_nonneg hmos)
  exact (h.construct hred .red).constructSamples_wf (k := .blue) hwf' rfl
    (hasDimShape_tabulate (s.construct .red s.redResult) _)
    (bluePlane_samplesIn s.cfg.maxSample_nonneg hmos)

end

/-- What the checks of a command that passes them say of its word, `CFG.SWC` and `DIM` (rule R234). -/
theorem passes_of_acceptanceChecks {i : Instr} (h : firstFault s (acceptanceChecks i) = none) : i.legal = true ∧
    (needsWidth i = true → s.cfg.swc.toNat < 2) ∧ (checksDims i = true → s.dimsOK = true) := by
  rw [firstFault_acceptanceChecks, reportedFault] at h
  split_ifs at h with hlegal hwidth hdims
  exact ⟨by simpa using hlegal, fun hneeds => by_contra fun hlt => hwidth ⟨hneeds, by omega⟩,
    fun hchecks => by simpa [hchecks] using hdims⟩

theorem allocStage_mem_wf {d : Slot} (hwf : s.mem.wf s.params = true)
    (hpass : firstFault s (acceptanceChecks (.balloc d)) = none) : (allocStage d s).mem.wf s.params = true := by
  obtain ⟨-, hwidth, hdims⟩ := passes_of_acceptanceChecks hpass
  refine State.construct_mem_wf hwf (by simpa [needsWidth] using hwidth) (hdims rfl) (hasDimShape_tabulate s _)
    fun r c hr hc => ?_
  have hzero : (zeroPlane s.dim.h.toNat s.dim.w.toNat).sample r c = 0 := Plane.tabulate_sample _ hr hc
  rw [hzero]
  cases hd : d.isWide with
  | true => exact (inRange_iff_of_wideSlot hd).mpr (by decide)
  | false => exact (inRange_iff_of_sampleSlot hd).mpr ⟨Int.le_refl 0, SampleBytes.maxSample_nonneg _⟩

/-- The copy has the form of the destination's kind (rule R236). -/
theorem copiedRaster_wf {p : Params} {cfg : Cfg} {d src : Slot} {ras : Raster} (hras : ras.wf p src = true)
    (hwidth : src.isWide = true → d.isWide = false → cfg.swc.toNat < 2) :
    (copiedRaster cfg d src ras).wf p d = true := by
  obtain ⟨htag, hdim, hshape, hall⟩ := Raster.wf_iff.mp hras
  cases hd : d.isWide with
  | true =>
    rw [copiedRaster_widened hd]
    exact Raster.wf_iff.mpr ⟨by simp [tagOK, hd], hdim, Plane.tabulate_wellShaped .., Plane.tabulate_allSamples.mpr
      fun r c hr hc => inRange_widened hd htag (Plane.sample_of_allSamples hshape hall hr hc)⟩
  | false =>
    cases hsrc : src.isWide with
    | true =>
      rw [copiedRaster_narrowed hd hsrc]
      exact Raster.wf_iff.mpr ⟨(tagOK_iff_of_sampleSlot hd).mpr (Cfg.sampleBytes_ne_four (hwidth hsrc hd)), hdim,
        Plane.tabulate_wellShaped .., Plane.tabulate_allSamples.mpr fun r c _ _ =>
          (inRange_iff_of_sampleSlot hd).mpr ⟨clampM_nonneg cfg.maxSample_nonneg, clampM_le cfg.maxSample_nonneg⟩⟩
    | false =>
      rw [copiedRaster_exact hd hsrc, Raster.wf_of_kind (hd.trans hsrc.symm)]
      exact hras

theorem copyStage_mem_wf {d src : Slot} (hwf : s.mem.wf s.params = true)
    (hpass : firstFault s (acceptanceChecks (.bcopy d src)) = none) : (copyStage d src s).mem.wf s.params = true := by
  obtain ⟨-, hwidth, -⟩ := passes_of_acceptanceChecks hpass
  by_cases hne : d = src
  · rwa [hne, copyStage_self]
  cases hslot : s.mem.slot src with
  | none => rwa [copyStage_of_empty hslot]
  | some ras =>
    rw [copyStage_of_slot hne hslot]
    exact Memory.setSlot_wf hwf (copiedRaster_wf (Memory.raster_wf hwf hslot) (by simpa [needsWidth] using hwidth))

theorem moveStage_mem_wf {d src : Slot} (hwf : s.mem.wf s.params = true)
    (hpass : firstFault s (acceptanceChecks (.bmove d src)) = none) : (moveStage d src s).mem.wf s.params = true := by
  obtain ⟨hlegal, -, -⟩ := passes_of_acceptanceChecks hpass
  by_cases hne : d = src
  · rwa [hne, moveStage_self]
  rw [moveStage_of_ne hne]
  refine Memory.clearSlot_wf (Memory.setSlot_wf hwf ?_)
  rw [slotWf_of_kind (bmove_legal_iff.mp hlegal)]
  exact Memory.wf_iff.mp hwf src

theorem freeStage_mem_wf (d : Slot) (hwf : s.mem.wf s.params = true) : (freeStage d s).mem.wf s.params = true :=
  Memory.clearSlot_wf hwf

end

/-! ### The engine's step -/

section
variable {s t : State} {i : Instr} {st : Stage} {work : State → State}

/-- A busy engine of the invariant has a command in progress, at one of its stages, whose checks pass (rules R36,
R44). -/
theorem State.Inv.guards_of_busy (h : s.Inv) (hb : s.engine = .busy st) :
    ∃ i, decode s.curCmd = .ok i ∧ stageOf i st = true ∧ firstFault s (stageGuards i st) = none := by
  obtain ⟨i, hi, -⟩ := h.command_of_busy hb
  obtain ⟨-, -, -, hready⟩ := h
  simp only [engineReady, hb, hi, Bool.and_eq_true, beq_iff_eq] at hready
  exact ⟨i, hi, hready⟩

theorem State.Inv.done_of_notIdle (h : s.Inv) (hidle : s.engine ≠ .idle) : s.done = false :=
  Bool.eq_false_iff.mpr fun hdone => hidle (h.idle_of_done hdone)

/-- A finished command leaves the engine idle, so the invariant asks for the form of the slots only (rule R233). -/
theorem State.Inv.finish (h : s.Inv) (hwork : WritesOnlySlots work) (hwf : (work s).mem.wf s.params = true) :
    (work s).finish.Inv := by
  obtain ⟨hp, -, -, -⟩ := h
  rw [hwork s]
  exact ⟨hp, hwf, by simp [doneOnlyIdle], rfl⟩

/-- A stage of `DEMOSAIC` that is not the last leads to the next with its checks passed (rules R231, R233). -/
theorem State.Inv.nextStage {st' : Stage} (h : s.Inv) (hb : s.engine = .busy st) (hi : decode s.curCmd = .ok i)
    (hwork : WritesOnlySlots work) (hwf : (work s).mem.wf s.params = true) (hstage : stageOf i st' = true)
    (hguards : firstFault (work s) (stageGuards i st') = none) : ((work s).start st').Inv := by
  obtain ⟨hp, -, -, -⟩ := id h
  have hdone : s.done = false := h.done_of_notIdle (by rw [hb]; nofun)
  have hpass : firstFault ((work s).start st') (stageGuards i st') = none := by rwa [firstFault_start]
  rw [hwork s] at hpass ⊢
  refine ⟨hp, hwf, by simp [doneOnlyIdle, hdone], ?_⟩
  simp [engineReady, hi, hstage, hpass]

/-- A command of one stage is finished by its engine step (rule R233). -/
theorem State.Inv.exec_oneStage (h : s.Inv) (hb : s.engine = .busy st)
    (hexec : ∀ u, exec i u = runSingleStage i (firstStage i) work u) (hwork : WritesOnlySlots work)
    (hwf : (work s).mem.wf s.params = true) (hnext : exec i s = .next t) : t.Inv := by
  rw [hexec] at hnext
  obtain ⟨he, -⟩ | ⟨-, rfl⟩ | ⟨cause, info, he, -⟩ := runSingleStage_cases hnext
  · cases he.symm.trans hb
  · exact h.finish hwork hwf
  · cases he.symm.trans hb

/-- The stage of a stage command has the inputs its checks have found in order (rules R233, R234). -/
theorem State.Inv.exec_stageCommand (h : s.Inv) (hb : s.engine = .busy st) (hnext : exec i s = .next t)
    (hi : isStageCommand i = true) (hexec : ∀ u, exec i u = runSingleStage i (firstStage i) work u)
    (hwork : WritesOnlySlots work) (hguards : firstFault s (acceptanceChecks i) = none)
    (hkeeps : InputsReady (checkedSlots i) s → s.mem.wf s.params = true → (work s).mem.wf s.params = true) :
    t.Inv := by
  obtain ⟨-, hwf, -, -⟩ := id h
  exact h.exec_oneStage hb hexec hwork (hkeeps ((firstFault_stageCommand_eq_none hi).mp hguards) hwf) hnext

/-- The slots in order before a stage of `DEMOSAIC`; slot 0 is kept for the last stage (rule R231). -/
def demosaicInputs : Stage → List Slot
  | .interpolate | .bufferOp => [.mosaic]
  | .classify => [.mosaic, .greenV, .greenH]
  | .merge => [.greenV, .greenH, .cls, .mosaic]
  | .reconstruct => [.mosaic, .cls, .green]

/-- The checks that guard a stage of `DEMOSAIC` (rule R231). -/
theorem firstFault_demosaicGuards_eq_none :
    firstFault s (stageGuards .demosaic st) = none ↔ InputsReady (demosaicInputs st) s := by
  cases st with
  | interpolate | bufferOp => exact firstFault_stageCommand_eq_none (i := .demosaic) rfl
  | classify => exact firstFault_stageCommand_eq_none (i := .ccd) rfl
  | reconstruct => exact firstFault_stageCommand_eq_none (i := .rrb) rfl
  | merge =>
    rw [stageGuards, firstFault_append, Option.or_eq_none_iff, firstFault_stageCommand_eq_none rfl,
      firstFault_inputChecks_eq_none]
    refine ⟨fun ⟨h, hmos⟩ => ⟨h.width, h.dims, ?_⟩, fun h => ⟨h.mono (by decide), fun k hk => ?_⟩⟩
    · exact List.forall_mem_append.mpr ⟨h.shapes, hmos⟩
    · exact h.shapes k ((by decide : [Slot.mosaic] ⊆ demosaicInputs .merge) hk)

/-- Each stage of `DEMOSAIC` leaves the inputs of the next in order (rule R231). -/
theorem State.Inv.exec_demosaic (h : s.Inv) (hb : s.engine = .busy st) (hi : decode s.curCmd = .ok .demosaic)
    (hguards : firstFault s (stageGuards .demosaic st) = none) (hnext : exec .demosaic s = .next t) : t.Inv := by
  have hready := firstFault_demosaicGuards_eq_none.mp hguards
  obtain ⟨-, hwf, -, -⟩ := id h
  obtain ⟨he, -⟩ | ⟨he, rfl⟩ | ⟨he, rfl⟩ | ⟨he, rfl⟩ | ⟨he, rfl⟩ | ⟨cause, info, he, -⟩ := execDemosaic_cases hnext <;>
    cases he.symm.trans hb
  · exact h.nextStage hb hi (fun _ => rfl) (interpolateVH_mem_wf hready hwf (by decide)) rfl
      (firstFault_demosaicGuards_eq_none.mpr (hready.interpolateVH.mono (by decide)))
  · exact h.nextStage hb hi (fun _ => rfl) (classifyStage_mem_wf hready hwf (by decide)) rfl
      (firstFault_demosaicGuards_eq_none.mpr (hready.classifyStage.mono (by decide)))
  · exact h.nextStage hb hi (fun _ => rfl) (mergeStage_mem_wf hready hwf (by decide)) rfl
      (firstFault_demosaicGuards_eq_none.mpr (hready.mergeStage.mono (by decide)))
  · exact h.finish (fun _ => rfl) (reconstructStage_mem_wf hready hwf (by decide))

/-- The engine's step of the command in progress keeps the invariant (rule R233). -/
theorem State.Inv.exec_busy (h : s.Inv) (hb : s.engine = .busy st) (hi : decode s.curCmd = .ok i)
    (hstage : stageOf i st = true) (hguards : firstFault s (stageGuards i st) = none) (hnext : exec i s = .next t) :
    t.Inv := by
  obtain ⟨-, hwf, -, -⟩ := id h
  cases i with
  | igdH =>
    exact h.exec_stageCommand hb hnext rfl (fun _ => rfl) (fun _ => rfl) hguards
      (fun hready hwf => interpolateH_mem_wf hready hwf (by decide))
  | igdV =>
    exact h.exec_stageCommand hb hnext rfl (fun _ => rfl) (fun _ => rfl) hguards
      (fun hready hwf => interpolateV_mem_wf hready hwf (by decide))
  | igdVH =>
    exact h.exec_stageCommand hb hnext rfl (fun _ => rfl) (fun _ => rfl) hguards
      (fun hready hwf => interpolateVH_mem_wf hready hwf (by decide))
  | ccd =>
    exact h.exec_stageCommand hb hnext rfl (fun _ => rfl) (fun _ => rfl) hguards
      (fun hready hwf => classifyStage_mem_wf hready hwf (by decide))
  | mrg =>
    exact h.exec_stageCommand hb hnext rfl (fun _ => rfl) (fun _ => rfl) hguards
      (fun hready hwf => mergeStage_mem_wf hready hwf (by decide))
  | rrb =>
    exact h.exec_stageCommand hb hnext rfl (fun _ => rfl) (fun _ => rfl) hguards
      (fun hready hwf => reconstructStage_mem_wf hready hwf (by decide))
  | demosaic => exact h.exec_demosaic hb hi hguards hnext
  | balloc d => exact h.exec_oneStage hb (fun _ => rfl) (fun _ => rfl) (allocStage_mem_wf hwf hguards) hnext
  | bcopy d src =>
    exact h.exec_oneStage hb (fun _ => rfl) (copyStage_writesOnlySlots d src) (copyStage_mem_wf hwf hguards) hnext
  | bmove d src =>
    exact h.exec_oneStage hb (fun _ => rfl) (moveStage_writesOnlySlots d src) (moveStage_mem_wf hwf hguards) hnext
  | bfree d => exact h.exec_oneStage hb (fun _ => rfl) (fun _ => rfl) (freeStage_mem_wf d hwf) hnext
  | refine payload => cases hstage

theorem State.Inv.engineStep (h : s.Inv) (hb : s.engine.isBusy = true) (hnext : engineStep s = .next t) : t.Inv := by
  obtain ⟨st, hst⟩ := Engine.isBusy_iff.mp hb
  obtain ⟨i, hi, hstage, hguards⟩ := h.guards_of_busy hst
  rw [engineStep_of_decode hi] at hnext
  exact h.exec_busy hst hi hstage hguards hnext

/-! ### The acceptance of a command -/

/-- A legal command has its first stage guarded by its acceptance checks (rule R230). -/
theorem stageGuards_firstStage (hlegal : i.legal = true) :
    stageOf i (firstStage i) = true ∧ stageGuards i (firstStage i) = acceptanceChecks i := by
  cases i with
  | igdH | igdV | igdVH | ccd | mrg | rrb | demosaic | balloc | bcopy | bmove | bfree => exact ⟨rfl, rfl⟩
  | refine payload => cases hlegal

theorem decode_encode_of_legal (hlegal : i.legal = true) : decode (encode i) = .ok i :=
  decode_encode (Bool.and_eq_true_iff.mp hlegal).1

/-- An accepted command starts with its checks passed, and a refused one leaves the engine faulted (rules R230,
R272). -/
theorem State.Inv.accept (h : s.Inv) (i : Instr) : (s.accept i (firstStage i)).Inv := by
  obtain ⟨hp, hwf, -, -⟩ := h
  obtain ⟨hpass, haccept⟩ | ⟨cause, info, -, haccept⟩ := s.accept_cases i (firstStage i) <;> rw [haccept]
  · rw [firstFault_latchCommand] at hpass
    obtain ⟨hlegal, -, -⟩ := passes_of_acceptanceChecks hpass
    obtain ⟨hstage, hguards⟩ := stageGuards_firstStage hlegal
    refine ⟨hp, hwf, rfl, ?_⟩
    simp [engineReady, decode_encode_of_legal hlegal, hstage, hguards, hpass]
  · exact ⟨hp, hwf, rfl, rfl⟩

theorem State.Inv.acceptIllegal (h : s.Inv) (x : Word) : (s.acceptIllegal x).Inv := by
  obtain ⟨hp, hwf, -, -⟩ := h
  exact ⟨hp, hwf, rfl, rfl⟩

/-- A write to `CMD` that is not held keeps the invariant, whatever the word is (rules R97, R230, R273). -/
theorem State.Inv.writeCommand (h : s.Inv) (hb : s.engine.isBusy = false) {x : Word}
    (hnext : writeCommand x s = .next t) : t.Inv := by
  cases he : s.engine with
  | busy st => simp [he, Engine.isBusy] at hb
  | faulted cause info =>
    cases (writeCommand_faulted x he).symm.trans hnext
    exact h
  | idle =>
    cases hx : decode x with
    | ok i =>
      rw [writeCommand_of_decode hx, exec_idle i he] at hnext
      cases hnext
      exact h.accept i
    | error e =>
      simp only [Machine.writeCommand, hx, he] at hnext
      cases hnext
      exact h.acceptIllegal x

/-! ### The host's accesses -/

theorem State.Inv.resetBlock (h : s.Inv) : s.resetBlock.Inv := by
  obtain ⟨hp, -, -, -⟩ := h
  exact State.resetWith_inv hp

theorem engineReady_of_notBusy (hb : s.engine.isBusy = false) : engineReady s = true := by
  unfold engineReady
  cases he : s.engine with
  | idle | faulted => rfl
  | busy st =>
    rw [he] at hb
    cases hb

theorem doneOnlyIdle_iff : doneOnlyIdle s = true ↔ (s.done = true → s.engine = .idle) := by
  cases hdone : s.done <;> simp [doneOnlyIdle, hdone]

theorem State.Inv.readRegister (h : s.Inv) (off : Nat) : (readRegister off s).Inv := by
  rw [readRegister_frame]
  exact h

/-- A performed write that is none to `CMD` never sets `DONE` (rules R35, R50). -/
theorem done_of_writeRegister {off : Nat} {d : Word} (hcmd : off ≠ 0x0C) (hnext : writeRegister off d s = .next t)
    (hdone : t.done = true) : s.done = true := by
  by_cases hstatus : off = 0x10
  · subst hstatus
    cases hnext
    exact (Bool.and_eq_true_iff.mp hdone).1
  by_cases hsrst : off = 0x14 ∧ d.getLsbD 31 = true
  · obtain ⟨rfl, hbit⟩ := hsrst
    cases hnext
    rw [writeCtrl, wordBit, if_pos hbit] at hdone
    cases hdone
  · rwa [(writeRegister_keepsCommand hcmd hstatus hsrst hnext).done] at hdone

/-- A write that is not held keeps the invariant (rules R30 to R43, R64). -/
theorem State.Inv.writeRegister (h : s.Inv) (hb : s.engine.isBusy = false) {off : Nat} {d : Word}
    (hnext : writeRegister off d s = .next t) : t.Inv := by
  obtain ⟨hp, hwf, -, -⟩ := id h
  by_cases hcmd : off = 0x0C
  · subst hcmd
    exact h.writeCommand hb hnext
  have hdone := done_of_writeRegister hcmd hnext
  obtain ⟨hcmd', -⟩ | ⟨t', ht, hcases⟩ := writeRegister_cases off d s
  · exact absurd hcmd' hcmd
  cases ht.symm.trans hnext
  obtain hfields | ⟨-, -, rfl⟩ | ⟨-, rfl⟩ := hcases
  · rw [hfields]
    exact ⟨hp, hwf, doneOnlyIdle_iff.mpr fun ht => h.idle_of_done (hdone ht), engineReady_of_notBusy hb⟩
  · exact h.resetBlock
  · have hport := State.portSet_wf hwf d
    rw [State.portSet_frame] at hport ⊢
    exact ⟨hp, hport, doneOnlyIdle_iff.mpr h.idle_of_done, engineReady_of_notBusy hb⟩

end

/-- Settles O57: each kind of step keeps the invariant. -/
theorem everyStepKeepsTheInvariant : Obligations.EveryStepKeepsTheInvariant := by
  intro s t h hnext
  obtain ⟨-, -, hstep⟩ | ⟨hb, -, hstep⟩ | ⟨hb, -, hstep⟩ | ⟨-, -, hstep⟩ | ⟨-, hstep⟩ | ⟨off, rest, -, -, -, -, hstep⟩ |
    ⟨off, d, rest, -, -, hb, -, hstep⟩ | ⟨why, -, hstep⟩ := step_cases s <;> rw [hstep] at hnext
  · cases hnext
    exact h
  · exact h.engineStep hb hnext
  · exact h.dropInput.engineStep hb hnext
  · cases hnext
    exact h.dropInput
  · cases hnext
    exact h.dropInput.resetBlock
  · cases hnext
    exact h.dropInput.readRegister off
  · exact h.dropInput.writeRegister hb hnext
  · cases hnext

end Sys2Proof.Machine

/-!
## The steps and what they change (10_state.md, sections 2 and 4)
-/

namespace Sys2Proof.Machine

section
variable {s t : State} {i : Instr} {st : Stage}

/-! ### The transitions of the engine state -/

/-- How the engine's step leaves a stage: the command is finished, or it is `DEMOSAIC` and goes to its next stage (rules
R231, R233). -/
theorem exec_leaves_stage (hb : s.engine = .busy st) (h : exec i s = .next t) :
    (t.engine = .idle ∧ t.done = true) ∨
      (i = .demosaic ∧ ∃ st', followingStage st = some st' ∧ t.engine = .busy st') := by
  obtain ⟨work, hi⟩ | rfl | ⟨payload, rfl⟩ := command_cases i
  · rw [hi.exec_eq] at h
    obtain ⟨he, -⟩ | ⟨-, rfl⟩ | ⟨cause, info, he, -⟩ := runSingleStage_cases h
    · cases he.symm.trans hb
    · exact .inl ⟨rfl, rfl⟩
    · cases he.symm.trans hb
  · obtain ⟨he, -⟩ | ⟨he, rfl⟩ | ⟨he, rfl⟩ | ⟨he, rfl⟩ | ⟨he, rfl⟩ | ⟨cause, info, he, -⟩ := execDemosaic_cases h <;>
      cases he.symm.trans hb
    · exact .inr ⟨rfl, .classify, rfl, rfl⟩
    · exact .inr ⟨rfl, .merge, rfl, rfl⟩
    · exact .inr ⟨rfl, .reconstruct, rfl, rfl⟩
    · exact .inl ⟨rfl, rfl⟩
  · simp only [exec, execRefine, hb] at h
    cases h

/-- The engine's step is that of the command in `CUR_CMD` (rule R233). -/
theorem exec_of_engineStep (h : engineStep s = .next t) : ∃ i, decode s.curCmd = .ok i ∧ exec i s = .next t := by
  unfold engineStep at h
  split at h
  · next i hi => exact ⟨i, hi, h⟩
  · cases h

/-- What a step of a busy engine can be: a reset, the engine's step of the command in progress, or a read that leaves
the engine and the slots as they are (rules R68, R300). -/
theorem step_cases_of_busy (hb : s.engine.isBusy = true) (h : step s = .next t) :
    ResetNext s ∨
      (∃ u i, u.engine = s.engine ∧ u.mem = s.mem ∧ decode s.curCmd = .ok i ∧ exec i u = .next t) ∨
      (t.engine = s.engine ∧ t.mem = s.mem) := by
  have hnotIdle : s.engine.isBusy ≠ false := by simp [hb]
  obtain ⟨-, hidle, -⟩ | ⟨-, -, hstep⟩ | ⟨-, -, hstep⟩ | ⟨hidle, -, -⟩ | ⟨hreset, -⟩ | ⟨off, rest, -, -, -, -, hstep⟩ |
    ⟨off, d, rest, -, -, hidle, -, -⟩ | ⟨why, -, hstep⟩ := step_cases s
  · exact absurd hidle hnotIdle
  · obtain ⟨i, hi, hexec⟩ := exec_of_engineStep (hstep.symm.trans h)
    exact .inr (.inl ⟨s, i, rfl, rfl, hi, hexec⟩)
  · obtain ⟨i, hi, hexec⟩ := exec_of_engineStep (hstep.symm.trans h)
    exact .inr (.inl ⟨s.dropInput, i, rfl, rfl, hi, hexec⟩)
  · exact absurd hidle hnotIdle
  · exact .inl (.inl hreset)
  · cases hstep.symm.trans h
    rw [readRegister_frame]
    exact .inr (.inr ⟨rfl, rfl⟩)
  · exact absurd hidle hnotIdle
  · cases hstep.symm.trans h

/-- A busy engine is reset, stays at its stage, finishes, or goes to the next stage of `DEMOSAIC` (rule R44). -/
theorem step_engine_of_busy (hb : s.engine = .busy st) (h : step s = .next t) :
    (ResetNext s ∧ t.engine = .idle) ∨ t.engine = .busy st ∨ (t.engine = .idle ∧ t.done = true) ∨
      (decode s.curCmd = .ok .demosaic ∧ ∃ st', followingStage st = some st' ∧ t.engine = .busy st') := by
  obtain hreset | ⟨u, i, hengine, -, hi, hexec⟩ | ⟨hengine, -⟩ :=
    step_cases_of_busy (Engine.isBusy_iff.mpr ⟨st, hb⟩) h
  · exact .inl ⟨hreset, (hreset.idle_and_empty h).1⟩
  · obtain hfinished | ⟨rfl, hnext⟩ := exec_leaves_stage (hengine.trans hb) hexec
    · exact .inr (.inr (.inl hfinished))
    · exact .inr (.inr (.inr ⟨hi, hnext⟩))
  · exact .inr (.inl (hengine.trans hb))

/-- From `IDLE` only a `CMD` write leads on (rule R44). -/
theorem step_leaves_idle (hidle : s.engine = .idle) (h : step s = .next t) (hleft : t.engine ≠ .idle) :
    ∃ x rest, WritesNext s 0x0C x rest := by
  obtain hreset | hcmd | ⟨d, rest, -, rfl⟩ | hkeeps := step_cases_of_notBusy (by rw [hidle]; rfl) h
  · exact absurd (hreset.idle_and_empty h).1 hleft
  · exact hcmd
  · exact absurd hidle hleft
  · exact absurd (hkeeps.engine.trans hidle) hleft

end

/-- Settles O54: the ways a busy engine can go, and that `FAULTED` is left only by reset. -/
theorem engineTransitions : Obligations.EngineTransitions := by
  intro s t h
  refine ⟨fun hidle => step_leaves_idle hidle h, fun st hb => ?neverFaults, fun st st' hb hb' => ?following,
    fun st hb hidle => ?finishes, fun hfault => ?faulted⟩
  case neverFaults =>
    obtain ⟨-, he⟩ | he | ⟨he, -⟩ | ⟨-, st', -, he⟩ := step_engine_of_busy hb h <;> rw [he] <;> rfl
  case following =>
    obtain ⟨-, he⟩ | he | ⟨he, -⟩ | ⟨hi, st'', hnext, he⟩ := step_engine_of_busy hb h <;> cases hb'.symm.trans he
    · exact .inl rfl
    · exact .inr ⟨hi, hnext⟩
  case finishes =>
    obtain ⟨hreset, -⟩ | he | ⟨-, hdone⟩ | ⟨-, st', -, he⟩ := step_engine_of_busy hb h
    · exact .inr hreset
    · cases hidle.symm.trans he
    · exact .inl hdone
    · cases hidle.symm.trans he
  case faulted =>
    obtain ⟨cause, info, he⟩ := Engine.isFaulted_iff.mp hfault
    by_cases hreset : ResetNext s
    · rw [(hreset.idle_and_empty h).1]
      exact ⟨rfl, fun _ => hreset⟩
    · rw [(step_keepsFault he h hreset).1]
      exact ⟨rfl, nofun⟩

/-! ### The slots a step leaves alone -/

section
variable {s t : State} {k : Slot}

/-- Acceptance writes no slot, and a faulted engine ignores the word (rules R230, R272, R273). -/
theorem writeCommand_mem {x : Word} (hb : s.engine.isBusy = false) (h : writeCommand x s = .next t) :
    t.mem = s.mem := by
  cases he : s.engine with
  | busy st =>
    rw [he] at hb
    cases hb
  | faulted cause info =>
    cases (writeCommand_faulted x he).symm.trans h
    rfl
  | idle =>
    cases hx : decode x with
    | ok i =>
      rw [writeCommand_of_decode hx, exec_idle i he] at h
      cases h
      exact State.accept_mem ..
    | error e =>
      simp only [writeCommand, hx, he] at h
      cases h
      rfl

/-- A set through the port reaches the selected slot alone (rule R64). -/
theorem State.portSet_slot_other (d : Word) (hk : Slot.ofNum s.bufSel ≠ some k) :
    (s.portSet d).mem.slot k = s.mem.slot k := by
  unfold State.portSet
  cases ht : s.portTarget with
  | none => rfl
  | some target =>
    obtain ⟨hsel, -⟩ := State.portTarget_eq_some ht
    exact Memory.slot_setSlot_other _ _ fun heq => hk (heq ▸ hsel)

/-- What a step of an engine that is not busy does to the slots: a reset empties them, a `BUF_DATA` write sets the
port's, and nothing else reaches them (rule R26). -/
theorem step_mem_of_notBusy (hb : s.engine.isBusy = false) (h : step s = .next t) :
    ResetNext s ∨ (∃ d rest, WritesNext s 0x20 d rest ∧ t = s.dropInput.portSet d) ∨ t.mem = s.mem := by
  have hnotBusy : s.engine.isBusy ≠ true := Bool.eq_false_iff.mp hb
  obtain ⟨-, -, hstep⟩ | ⟨hbusy, -, -⟩ | ⟨hbusy, -, -⟩ | ⟨-, -, hstep⟩ | ⟨hreset, -⟩ | ⟨off, rest, -, -, -, -, hstep⟩ |
    ⟨off, d, rest, -, -, -, hnext, hstep⟩ | ⟨why, -, hstep⟩ := step_cases s
  · cases hstep.symm.trans h
    exact .inr (.inr rfl)
  · exact absurd hbusy hnotBusy
  · exact absurd hbusy hnotBusy
  · cases hstep.symm.trans h
    exact .inr (.inr rfl)
  · exact .inl (.inl hreset)
  · cases hstep.symm.trans h
    rw [readRegister_frame]
    exact .inr (.inr rfl)
  · obtain ⟨-, hcmd⟩ | ⟨t', ht, hfields | ⟨rfl, hsrst, -⟩ | ⟨rfl, hport⟩⟩ := writeRegister_cases off d s.dropInput
    · exact .inr (.inr (writeCommand_mem (s := s.dropInput) hb (hcmd.symm.trans (hstep.symm.trans h))))
    · cases (hstep.symm.trans h).symm.trans ht
      rw [hfields]
      exact .inr (.inr rfl)
    · exact .inl (.inr ⟨hb, d, rest, hnext, hsrst⟩)
    · cases (hstep.symm.trans h).symm.trans ht
      exact .inr (.inl ⟨d, rest, hnext, hport⟩)
  · cases hstep.symm.trans h

end

/-- Settles O55: the frame of the command in progress, and the slot the port reaches. -/
theorem slotsKeepTheirContent : Obligations.SlotsKeepTheirContent := by
  intro s t k h hchanged
  cases hb : s.engine.isBusy with
  | true =>
    obtain hreset | ⟨u, i, -, hmem, hi, hexec⟩ | ⟨-, hmem⟩ := step_cases_of_busy hb h
    · exact .inr (.inr hreset)
    · obtain ⟨-, hframe⟩ := commandsChangeOnlyTheirSlotsAndFlags i u t hexec
      have hwritten : k ∈ writtenSlots i := by
        by_contra hk
        exact hchanged ((hframe k hk).trans (congrArg (Memory.slot · k) hmem))
      exact .inl ⟨rfl, i, hi, hwritten⟩
    · exact absurd (congrArg (Memory.slot · k) hmem) hchanged
  | false =>
    obtain hreset | ⟨d, rest, hnext, rfl⟩ | hmem := step_mem_of_notBusy hb h
    · exact .inr (.inr hreset)
    · have hsel : Slot.ofNum s.bufSel = some k := by
        by_contra hk
        exact hchanged (State.portSet_slot_other (s := s.dropInput) d hk)
      exact .inr (.inl ⟨rfl, hsel, d, rest, hnext⟩)
    · exact absurd (congrArg (Memory.slot · k) hmem) hchanged

end Sys2Proof.Machine

/-!
## The registers as the host reads and writes them (10_state.md, 20_memory.md)
-/

namespace Sys2Proof.Machine

/-! ### The bits of the register words -/

@[simp] theorem bitOf_getElem_zero (b : Bool) : (bitOf b)[0] = b := by
  cases b <;> rfl

section
variable (s : State)

/-- The bits of `VALID` are those of the slots in their order (rule R41). -/
theorem validWord_bits (m : Memory) :
    m.validWord.getLsbD 0 = m.valid .mosaic ∧ m.validWord.getLsbD 1 = m.valid .greenV ∧
    m.validWord.getLsbD 2 = m.valid .greenH ∧ m.validWord.getLsbD 3 = m.valid .cls ∧
    m.validWord.getLsbD 4 = m.valid .green ∧ m.validWord.getLsbD 5 = m.valid .red ∧
    m.validWord.getLsbD 6 = m.valid .blue := by
  simp only [Memory.validWord, BitVec.getLsbD_append]
  simp

theorem validWord_reserved (m : Memory) {n : Nat} (hn : 7 ≤ n) : m.validWord.getLsbD n = false := by
  simp only [Memory.validWord, BitVec.getLsbD_append]
  iterate 7 rw [if_neg (by omega)]
  exact BitVec.getLsbD_zero

/-- The flags of `STATUS` (rule R35). -/
theorem statusWord_flags : s.statusWord.getLsbD 0 = s.engine.isBusy ∧ s.statusWord.getLsbD 1 = s.done ∧
    s.statusWord.getLsbD 2 = s.engine.isFaulted ∧ s.statusWord.getLsbD 3 = s.oob := by
  simp only [State.statusWord, BitVec.getLsbD_append]
  simp

/-- The fields of `STATUS` above its flags (rule R36). -/
theorem statusWord_fields : s.statusWord.extractLsb' 4 4 = s.engine.stageField ∧
    s.statusWord.extractLsb' 8 8 = s.engine.causeField ∧ s.statusWord.extractLsb' 16 16 = 0 := by
  simp only [State.statusWord, BitVec.extractLsb'_append_eq_ite]
  simp

end

section
variable (d : Word)

/-- A written bit is a field of one bit. -/
theorem bitOf_wordBit (n : Nat) : bitOf (wordBit d n) = d.extractLsb' n 1 := by
  have hbit : ∀ x : BitVec 1, bitOf (x == 1#1) = x := by decide
  rw [wordBit, BitVec.getLsbD_eq_extractLsb', hbit]

theorem patternCode_ofWord : (Cfg.ofWord d).pattern.code = d.extractLsb' 0 1 := by
  rw [← bitOf_wordBit]
  cases h : wordBit d 0 <;> simp [Cfg.ofWord, Pattern.code, bitOf, h]

/-- `CFG` reads back with its reserved bits 0 (rule R32). -/
theorem Cfg.word_ofWord : (Cfg.ofWord d).word = d &&& 0x37 := by
  have hfields : d.extractLsb' 6 26 ++ d.extractLsb' 5 1 ++ d.extractLsb' 4 1 ++ d.extractLsb' 3 1 ++
      d.extractLsb' 1 2 ++ d.extractLsb' 0 1 = d := by
    rw [BitVec.extractLsb'_append_extractLsb'_eq_extractLsb' (show 6 = 5 + 1 from rfl),
      BitVec.extractLsb'_append_extractLsb'_eq_extractLsb' (show 5 = 4 + 1 from rfl),
      BitVec.extractLsb'_append_extractLsb'_eq_extractLsb' (show 4 = 3 + 1 from rfl),
      BitVec.extractLsb'_append_extractLsb'_eq_extractLsb' (show 3 = 1 + 2 from rfl),
      BitVec.extractLsb'_append_extractLsb'_eq_extractLsb' (show 1 = 0 + 1 from rfl)]
    exact BitVec.extractLsb'_eq_self
  have hmask : (0x37 : Word) = 0#26 ++ BitVec.allOnes 1 ++ BitVec.allOnes 1 ++ 0#1 ++ BitVec.allOnes 2 ++
      BitVec.allOnes 1 := by decide
  conv_rhs => rw [hmask, ← hfields]
  rw [BitVec.and_append, BitVec.and_append, BitVec.and_append, BitVec.and_append, BitVec.and_append, Cfg.word,
    patternCode_ofWord]
  simp only [Cfg.ofWord, bitOf_wordBit, BitVec.and_allOnes, BitVec.and_zero]

/-- `CTRL` reads back with `SRST` and its reserved bits 0 (rule R37). -/
theorem Ctrl.word_ofWord : (Ctrl.ofWord d).word = d &&& 0x3 := by
  have hfields : d.extractLsb' 2 30 ++ d.extractLsb' 1 1 ++ d.extractLsb' 0 1 = d := by
    rw [BitVec.extractLsb'_append_extractLsb'_eq_extractLsb' (show 2 = 1 + 1 from rfl),
      BitVec.extractLsb'_append_extractLsb'_eq_extractLsb' (show 1 = 0 + 1 from rfl)]
    exact BitVec.extractLsb'_eq_self
  have hmask : (0x3 : Word) = 0#30 ++ BitVec.allOnes 1 ++ BitVec.allOnes 1 := by decide
  conv_rhs => rw [hmask, ← hfields]
  rw [BitVec.and_append, BitVec.and_append, Ctrl.word]
  simp only [Ctrl.ofWord, bitOf_wordBit, BitVec.and_allOnes, BitVec.and_zero]

/-- `BUF_SEL` reads back with its reserved bits 0 (rule R38). -/
theorem bufSelWord_field : bufSelWord (d.extractLsb' 0 4) = d &&& 0xF := by
  have hfields : d.extractLsb' 4 28 ++ d.extractLsb' 0 4 = d := BitVec.extractLsb'_append_extractLsb'
  have hmask : (0xF : Word) = 0#28 ++ BitVec.allOnes 4 := by decide
  conv_rhs => rw [hmask, ← hfields]
  rw [BitVec.and_append, bufSelWord, BitVec.and_allOnes, BitVec.and_zero]

/-- The two halves of a word, as `DIM` and `BUF_POS` read back (rules R33, R39). -/
theorem halves_append : d.extractLsb' 16 16 ++ d.extractLsb' 0 16 = d := BitVec.extractLsb'_append_extractLsb'

end

/-! ### The registers in their states -/

section
variable {s : State} {d : Word} {rest : List HostEvent}

/-- A write is ignored by the read-only registers and by the unmapped offsets (rules R31, R41 to R43). -/
theorem writeRegister_ignored (s : State) (d : Word) :
    ∀ off ∈ [0x00, 0x24, 0x28, 0x2C, 0x30, 0x34, 0x38, 0x3C], IsOffset off ∧ writeRegister off d s = .next s := by
  have hoffsets : ∀ off ∈ [0x00, 0x24, 0x28, 0x2C, 0x30, 0x34, 0x38, 0x3C],
      (off < 64 ∧ off % 4 = 0) ∧ off ∉ [0x04, 0x08, 0x0C, 0x10, 0x14, 0x18, 0x1C, 0x20] := by decide
  intro off hoff
  obtain ⟨hin, hnot⟩ := hoffsets off hoff
  simp only [List.mem_cons, List.not_mem_nil, or_false, not_or] at hnot
  refine ⟨hin, ?_⟩
  simp [writeRegister, hnot]

theorem step_of_ignoredWrite {off : Nat} (hoff : off ∈ [0x00, 0x24, 0x28, 0x2C, 0x30, 0x34, 0x38, 0x3C])
    (h : WritesNext s off d rest) (hb : s.engine.isBusy = false) : step s = .next { s with inputs := rest } := by
  obtain ⟨hin, hignored⟩ := writeRegister_ignored { s with inputs := rest } d off hoff
  rw [step_of_performedWrite hin h hb, hignored]

/-- `STATUS` is write-1-to-clear (rule R35). -/
theorem step_of_statusWrite (h : WritesNext s 0x10 d rest) (hb : s.engine.isBusy = false) :
    step s = .next { s with
      inputs := rest
      done := if d.getLsbD 1 then false else s.done
      oob := if d.getLsbD 3 then false else s.oob } := by
  have hclear : ∀ flag bit : Bool, (if bit then false else flag) = (flag && !bit) := by decide
  rw [step_of_performedWrite ⟨by decide, rfl⟩ h hb, hclear, hclear]
  rfl

end

/-- Settles O44. -/
theorem statusIsWriteOneToClearAndReadOnlyWritesAreIgnored :
    Obligations.StatusIsWriteOneToClearAndReadOnlyWritesAreIgnored := fun _ _ _ hb =>
  ⟨fun h => step_of_statusWrite h hb, fun _ hoff h => step_of_ignoredWrite hoff h hb⟩

theorem decode_of_decodeOk {x : Word} {i : Instr} (h : decodeOk x = some i) : decode x = .ok i := by
  unfold decodeOk at h
  split at h
  · next j hj =>
    cases h
    exact hj
  · cases h

/-- Settles O26: the word presented at `CMD` is accepted by an idle engine. -/
theorem fetchedWordRunsNext : Obligations.FetchedWordRunsNext := by
  intro s nbits w i hbits hi
  rw [decodeTableWord, if_pos hbits] at hi
  obtain ⟨hpresented, -⟩ := stepRunsTheDecodedCommand
  exact hpresented (s.withFetchWord nbits w) _ i s.inputs rfl rfl (decode_of_decodeOk hi)

/-- Settles O49: the state of rule R50 is what a reset makes of itself. -/
theorem resetStateIsIdleAndEmpty : Obligations.ResetStateIsIdleAndEmpty := fun p => atReset_resetBlock (.resetWith p)

/-- Every offset from 0x30 on is unmapped and reads 0 (rule R62). -/
theorem readWord_unmapped (s : State) {off : Nat} (hoff : 0x30 ≤ off) : readWord off s = 0 := by
  unfold readWord
  iterate 12 rw [if_neg (by omega)]

/-- `FAULT_INFO` has a value in `FAULTED` only (rule R42). -/
theorem Engine.infoWord_of_notFaulted {e : Engine} (h : e.isFaulted = false) : e.infoWord = 0 := by
  cases e with
  | idle | busy => rfl
  | faulted cause info => cases h

/-- Settles O42: the word of each register, field by field. -/
theorem readsReturnTheRegisters : Obligations.ReadsReturnTheRegisters := by
  refine ⟨fun s off rest hoff hne h => ?_, fun s => ?_⟩
  · rw [step_of_completedRead hoff h fun _ => hne, readRegister_of_ne hne, readWord_inputs]
  obtain ⟨hv0, hv1, hv2, hv3, hv4, hv5, hv6⟩ := validWord_bits s.mem
  obtain ⟨hbusy, hdone, hfault, hoob⟩ := statusWord_flags s
  obtain ⟨hstage, hcause, hreserved⟩ := statusWord_fields s
  refine ⟨rfl, rfl, rfl, fun off => readWord_unmapped s, hv0, hv1, hv2, hv3, hv4, hv5, hv6,
    fun n => validWord_reserved s.mem, fun cause info he => congrArg Engine.infoWord he, Engine.infoWord_of_notFaulted,
    hbusy, hdone, hfault, hoob, hstage.trans ?stageCode, hcause.trans ?causeCode, hreserved⟩
  case stageCode =>
    cases s.engine with
    | idle | faulted => rfl
    | busy st => cases st <;> rfl
  case causeCode =>
    cases s.engine with
    | idle | busy => rfl
    | faulted cause info => cases cause <;> rfl

/-- The commands that need the width are legal (rule R234). -/
theorem legal_of_needsWidth {i : Instr} (h : needsWidth i = true) : i.legal = true := by
  cases i with
  | igdH | igdV | igdVH | ccd | mrg | rrb | demosaic | balloc | bcopy => rfl
  | bmove | bfree | refine => cases h

/-- `CFGERR` is the first fault of a command that needs the width under a refused code (rules R32, R271). -/
theorem exec_of_refusedWidth {s : State} {i : Instr} (hneeds : needsWidth i = true) (hidle : s.engine = .idle)
    (hcode : 2 ≤ s.cfg.swc.toNat) : exec i s = .next (faultedState s (encode i) .cfgErr s.cfg.word) := by
  rw [acceptsByItsChecks i s hidle, reportedFault, if_neg (by simp [legal_of_needsWidth hneeds]),
    if_pos ⟨hneeds, hcode⟩]

/-- `BUF_SEL` 7 to 15 select no slot (rule R38). -/
theorem not_portInBounds_of_bufSel {s : State} (h : 7 ≤ s.bufSel.toNat) : ¬∃ k ras, PortInBounds s k ras := by
  rintro ⟨k, ras, hk, -⟩
  have hslot := Slot.ofNum_isSome s.bufSel
  rw [hk, Option.isSome_some, eq_comm, decide_eq_true_iff] at hslot
  omega

/-- Settles O43: the words written, as the registers hold them and read back. -/
theorem writtenRegistersReadBack : Obligations.WrittenRegistersReadBack := by
  refine ⟨fun s d rest hb => ⟨fun h => ?cfg, fun h => ?dim, fun h hsrst => ?ctrl,
    fun h hsrst => ⟨_, step_of_softReset h hsrst hb, atReset_resetBlock _⟩, fun h => ?bufSel, fun h => ?bufPos,
    ?bufData, fun h => step_of_statusWrite h hb, fun off hoff h => ?readOnly⟩,
    fun s => ⟨rfl, s.ctrl.word_srst⟩, fun cfg => ⟨fun hswc => ?one, fun hswc => ?two⟩,
    fun s i => exec_of_refusedWidth, fun s k hk hbytes => ?otherWidth, resetStateIsIdleAndEmpty⟩
  case cfg =>
    exact ⟨_, step_of_performedWrite ⟨by decide, rfl⟩ h hb, Cfg.word_ofWord d, rfl, rfl, rfl, rfl, rfl⟩
  case dim => exact ⟨_, step_of_performedWrite ⟨by decide, rfl⟩ h hb, halves_append d, rfl, rfl, rfl⟩
  case ctrl =>
    have hwrite : ∀ u, writeRegister 0x14 d u = .next { u with ctrl := Ctrl.ofWord d } := fun u => by
      change Host.Outcome.next (writeCtrl d u) = _
      rw [writeCtrl, wordBit, if_neg (Bool.eq_false_iff.mp hsrst)]
    exact ⟨_, (step_of_performedWrite isOffset_ctrl h hb).trans (hwrite _), Ctrl.word_ofWord d, rfl, rfl, rfl⟩
  case bufSel =>
    exact ⟨_, step_of_performedWrite ⟨by decide, rfl⟩ h hb, bufSelWord_field d, rfl, rfl, not_portInBounds_of_bufSel⟩
  case bufPos => exact ⟨_, step_of_performedWrite ⟨by decide, rfl⟩ h hb, halves_append d, rfl, rfl, rfl⟩
  case bufData =>
    rintro (h | h)
    · exact ⟨_, step_of_portWrite h hb, by rw [State.portSet_frame]⟩
    · exact ⟨_, step_of_portRead h hb, rfl⟩
  case readOnly =>
    exact step_of_ignoredWrite
      ((by decide : [0x00, 0x24, 0x28, 0x2C] ⊆ [0x00, 0x24, 0x28, 0x2C, 0x30, 0x34, 0x38, 0x3C]) hoff) h hb
  case one =>
    rw [Cfg.maxSample, Cfg.sampleBytes_of_swc_zero hswc]
    exact ⟨rfl, rfl⟩
  case two =>
    rw [Cfg.maxSample, Cfg.sampleBytes_of_swc_one hswc]
    exact ⟨rfl, rfl⟩
  case otherWidth =>
    refine Bool.eq_false_iff.mpr fun hshape => ?_
    obtain ⟨-, -, -, htag⟩ := State.shapeOK_iff.mp hshape
    rcases htag with hwide | heq
    · exact hk (Slot.isWide_iff.mp hwide)
    · exact hbytes heq

end Sys2Proof.Machine
